-- ==== Sys2Proof/Word.lean ====
section
/-! DEFINITION. The words of the FS-2120: a link byte and a Timebase value. -/

namespace Sys2Proof

/-- One byte of the host link (R184). -/
abbrev Byte := BitVec 8

/-- A Timebase value: a 48-bit count of microseconds (R198). -/
abbrev Time := BitVec 48

end Sys2Proof
end

