-- ==== Sys2Proof/Syntax.lean ====
section
/-! DEFINITION. The commands of the FS-2120: one constructor of `Instr` for each row of spec/opcode_table.json. -/

namespace Sys2Proof

/-- The two streams (00, Terms: stream). -/
inductive StreamId where
  | s0
  | s1
  deriving DecidableEq, Repr

/-- The levels of the two rate strap pins (R197, section 10.9). -/
structure Straps where
  rate1 : Bool
  rate0 : Bool
  deriving DecidableEq, Repr

/-- A byte completed on the link receive line, with the level of its stop bit (section 10.2, R187). -/
structure LineByte where
  value : Byte
  stopHigh : Bool
  deriving DecidableEq, Repr

/-- The steps of the part, as 95_what_each_step_holds lists them. A request row is the executor's step that
takes a request of that kind from the head of the inbound queue (R189), so its operands are the fields of that
frame's body (R203) and not arguments here (log 1). -/
inductive Instr where
  | powerOnReset (straps : Straps)
  | bitArrival (stream : StreamId) (bit : Bool)
  | idleExpiry (stream : StreamId)
  | windowExpiry (stream : StreamId)
  | staleTimerExpiry (channel : Nat)
  | frameReceived (bytes : List LineByte)
  | gapTimerExpiry
  | sendReady
  | sendReply
  | noticeSend
  | frameSent
  | ping
  | timeGet
  | resetFull
  | resetStreams
  | resetChannels
  | profileLoad
  | profileDrop
  | profileRead
  | streamArm
  | streamDisarm
  | streamStatus
  | mapAdd
  | mapRemove
  | mapCommit
  | mapDiscard
  | mapList
  | channelBind
  | channelUnbind
  | channelSet
  | channelRead
  | channelClearLatches
  | channelClearValue
  | channelClearQueue
  | queueDrain
  | rosterSet
  | rosterRead
  | rosterStart
  | rosterStop
  | noticeMask
  | noticeGrant
  | badKind
  | byteArrival (byte : LineByte)
  | timebaseTick
  deriving DecidableEq, Repr

end Sys2Proof
end

