-- ==== Sys2Proof/Decode.lean ====
section
/-! DEFINITION. The command a word of the opcode table's bits spells. The table gives no row any bits
(98_reader: 44 rows, none with fixed bits or fields), so no word spells a command. -/

namespace Sys2Proof

/-- No row of spec/opcode_table.json has bits: every word is refused. -/
def decodeTableWord (_nbits _w : Nat) : Option Instr := none

end Sys2Proof
end

