-- ==== Sys2Proof/Config.lean ====
section
/-! DEFINITION. The part's fixed capacities and codes, and the free values the spec leaves open. -/

namespace Sys2Proof.Config

/-- R68, R79: the committed entries the CAPACITY check allows. -/
def mapEntries : Nat := 512
/-- R71: staged edits per stream. -/
def stagedEdits : Nat := 64
/-- R81: channels that one minor frame may complete. -/
def stagingLimit : Nat := 64
/-- R135: slots of the Sample Pool. -/
def sampleSlots : Nat := 2048
/-- R165: pending notices. -/
def noticeSlots : Nat := 32
/-- R188: valid request frames the inbound queue holds. -/
def inboundSlots : Nat := 4
/-- R195: replies the outbound reply queue holds. -/
def replySlots : Nat := 4
/-- R194: entries of the reply cache. -/
def cacheSlots : Nat := 4
/-- R177, R175: the largest credit count. -/
def maxCredits : Nat := 255
/-- R169: the largest coalesced count. -/
def maxCoalesced : Nat := 255
/-- R141, R170: where a dropped count stops. -/
def maxDropped : Nat := 65535
/-- R187: the inter-byte gap, in milliseconds. -/
def gapMs : Nat := 10
/-- R145: records one QUEUE_DRAIN may take. -/
def drainLimit : Nat := 12
/-- R93: entries one MAP_LIST returns. -/
def listPage : Nat := 12
/-- R154: channels in a roster's list. -/
def rosterLimit : Nat := 16
/-- R196, R201: the part code. -/
def partCode : Nat := 0x2120
/-- R196, R201: the revision. -/
def revision : Nat := 0x01

/-- DESIGN CHOICE (log 10), safe. The bytes of a reply or notice field that its presence flag marks
absent, which R203 does not state: a FREE VALUE with no body, applied to a counter of `State`, so that
each field sent has a value of its own and nothing can be proved of it. -/
opaque unstated : Nat → BitVec 160

/-- DESIGN CHOICE (log 26), safe. How many of the requests that wait the executor takes right after a release, before the next
release of the same minor frame or its end (R147, R189): events that fall together, whose order the spec leaves open. A FREE
VALUE with no body, applied to a counter of `State`. -/
opaque requestsFall : Nat → Nat

/-- DESIGN CHOICE (log 6, log 27), safe. Whether the transmitter begins a notice at a point inside a step where R178 lets it: R178
takes a send as soon as a notice waits and the line is free, R189 and file 95 take a step whole, R180 and R183 let either come
first. A FREE VALUE with no body, applied to a counter of `State`. -/
opaque beginsNotice : Nat → Bool

end Sys2Proof.Config
end

