-- ==== Sys2Proof/Machine/State.lean ====
section
/-! DEFINITION. Every piece of state the spec gives the FS-2120, as plain data, and the state after reset. -/

namespace Sys2Proof.Machine

/-- A profile slot number, 0..3 (R1). -/
abbrev Slot := Fin 4
/-- A channel number, 0..127 (R94). -/
abbrev ChannelId := Fin 128
/-- A roster number, 0..3 (R151). -/
abbrev RosterId := Fin 4

/-- One value for each stream (00, Block overview: the blocks that exist once per stream). -/
structure PerStream (α : Type) where
  s0 : α
  s1 : α
  deriving DecidableEq, Repr

/-! ### Profiles (01) -/

inductive IdDirection where
  | up
  | down
  deriving DecidableEq, Repr

inductive ParityKind where
  | noParity
  | odd
  | even
  deriving DecidableEq, Repr

inductive CheckKind where
  | noCheck
  | crc16
  deriving DecidableEq, Repr

/-- The seventeen fields of a LOADED slot (R1, section 1.6); `idPosition` and `idWidth` are absent when M = 1 (R12). -/
structure Profile where
  wordLength : Nat
  syncLength : Nat
  syncPattern : BitVec 64
  frameWords : Nat
  majorLength : Nat
  idPosition : Option Nat
  idWidth : Option Nat
  idBase : Nat
  idDirection : IdDirection
  parity : ParityKind
  check : CheckKind
  huntErrors : Nat
  relaxedErrors : Nat
  lockErrors : Nat
  verifyFrames : Nat
  coastFrames : Nat
  acceptInverted : Bool
  deriving DecidableEq, Repr

/-! ### Synchronizer (02) -/

inductive SyncMode where
  | off
  | hunt
  | verify
  | locked
  | coast
  | stopped
  deriving DecidableEq, Repr

inductive Phase where
  | strict
  | relaxed
  deriving DecidableEq, Repr

inductive Polarity where
  | normal
  | inverted
  deriving DecidableEq, Repr

/-- The reasons of SYNC_STATE (R40). -/
inductive SyncReason where
  | armed
  | disarmed
  | verified
  | miss
  | recovered
  | misses
  | idle
  | windowRelaxed
  | windowStopped
  | majorGained
  | majorLost
  | reset
  deriving DecidableEq, Repr

/-- The synchronizer record (R17, R33). A running timer is held as the Timebase value at its start. -/
structure Syn where
  mode : SyncMode
  phase : Phase
  armed : BitVec 4
  selected : Option Slot
  polarity : Polarity
  verifyCount : Nat
  missCount : Nat
  bitsToSync : Nat
  frameTime : Option Time
  window : Nat
  windowTimer : Option Time
  idleTimeout : Nat
  idleTimer : Option Time
  bitsFlowing : Bool
  history : BitVec 64
  fill : Nat
  locksAcquired : BitVec 32
  framesProcessed : BitVec 32
  framesCoasted : BitVec 32
  checkFailures : BitVec 32
  lastReason : Option SyncReason
  deriving DecidableEq, Repr

/-! ### Tracker (03) -/

inductive MajorState where
  | noMajor
  | majorSearch
  | majorLocked
  deriving DecidableEq, Repr

/-- The frame flags of the current minor frame (R61). -/
structure FrameFlags where
  coasted : Bool
  inverted : Bool
  idPredicted : Bool
  checkFail : Bool
  deriving DecidableEq, Repr

/-- A record of the assembly list (R57). -/
structure Assembly where
  channel : ChannelId
  received : Nat
  value : BitVec 32
  parity : Bool
  deriving DecidableEq, Repr

/-- A staged sample (R58). -/
structure Staged where
  channel : ChannelId
  value : BitVec 32
  parity : Bool
  deriving DecidableEq, Repr

/-- The tracker record (R43); `word` holds the bits of the word being assembled (R45). -/
structure Tracker where
  major : MajorState
  profile : Option Slot
  polarity : Polarity
  previousId : Option Nat
  mismatch : Nat
  frameId : Option Nat
  extracting : Bool
  wordPos : Nat
  wordBits : Nat
  word : BitVec 16
  checkReg : BitVec 16
  flags : FrameFlags
  frameStamp : Time
  assembly : List Assembly
  staging : List Staged
  majorCount : BitVec 32
  lastId : Option Nat
  deriving DecidableEq, Repr

/-! ### Extraction Map (04) -/

/-- A committed entry (R68). -/
structure MapEntry where
  stream : StreamId
  profile : Slot
  position : Nat
  first : Nat
  step : Nat
  channel : ChannelId
  fragment : Nat
  offset : Nat
  width : Nat
  deriving DecidableEq, Repr

/-- A staged edit (R71). -/
inductive Edit where
  | add (entry : MapEntry)
  | remove (channel : ChannelId) (profile : Slot) (fragment : Nat)
  | removeAll (channel : ChannelId) (profile : Slot)
  deriving DecidableEq, Repr

/-- A stream's staged edit list, its pending flag and the growth fixed when its commit was accepted (R71, R72, R83). -/
structure EditStage where
  edits : List Edit
  pending : Bool
  growth : Int
  deriving DecidableEq, Repr

/-! ### Channels and queues (05, 06, 07) -/

/-- The quality flags of a sample (R66). -/
structure Quality where
  parity : Bool
  checkFail : Bool
  coasted : Bool
  idPredicted : Bool
  inverted : Bool
  deriving DecidableEq, Repr

/-- A sample record (R66). -/
structure Sample where
  sequence : BitVec 32
  value : BitVec 32
  flags : Quality
  frameId : Byte
  majorCount : BitVec 32
  stamp : Time
  deriving DecidableEq, Repr

inductive OverflowPolicy where
  | keepOldest
  | keepNewest
  deriving DecidableEq, Repr

/-- The configuration CHANNEL_BIND sets (R94). -/
structure ChannelConfig where
  stream : StreamId
  fragments : Nat
  signed : Bool
  capacity : Nat
  policy : OverflowPolicy
  watermark : Nat
  deriving DecidableEq, Repr

/-- The settings CHANNEL_SET replaces (R95); bit n of the notice set is the channel kind n of section 10.8. -/
structure ChannelSettings where
  settleCount : Nat
  deadband : Nat
  limitsEnabled : Bool
  low : BitVec 32
  high : BitVec 32
  hysteresis : BitVec 32
  staleWindow : Nat
  noticeSet : BitVec 6
  deriving DecidableEq, Repr

inductive StaleReason where
  | timeout
  | lockLost
  | majorLost
  | disarmed
  deriving DecidableEq, Repr

/-- The value state with what R96 makes present in it: the last sample in CURRENT and STALE, the reason in STALE. -/
inductive ValueState where
  | noData
  | current (last : Sample)
  | stale (reason : StaleReason) (last : Sample)
  deriving DecidableEq, Repr

inductive LimitState where
  | normal
  | low
  | high
  deriving DecidableEq, Repr

/-- A settled value with its settled width (R118). -/
structure Settled where
  value : BitVec 32
  width : Nat
  deriving DecidableEq, Repr

/-- A channel's queue in the Sample Pool, oldest record first (R137). -/
structure SampleQueue where
  records : List Sample
  dropped : Nat
  flagArmed : Bool
  deriving DecidableEq, Repr

/-- A BOUND channel record (R94 to R96); bit n of `latches` is the latch n of section 10.8. -/
structure Channel where
  config : ChannelConfig
  width : Nat
  settings : ChannelSettings
  data : ValueState
  nextSeq : BitVec 32
  candidate : Option (BitVec 32)
  agree : Nat
  settled : Option Settled
  limit : LimitState
  latches : BitVec 7
  staleTimer : Option Time
  queue : SampleQueue
  deriving DecidableEq, Repr

/-! ### Rosters (08) -/

inductive RosterMode where
  | idle
  | periodic
  deriving DecidableEq, Repr

/-- A roster record (R151). -/
structure Roster where
  list : List ChannelId
  mode : RosterMode
  stream : StreamId
  period : Nat
  countdown : Nat
  deriving DecidableEq, Repr

/-- The value state a roster entry or CHANNEL_READ reports (R152). -/
inductive ReportedState where
  | noData
  | current
  | stale
  | unbound
  deriving DecidableEq, Repr

/-- A roster entry, with the fields of R152 and the values R152 gives the absent ones. -/
structure RosterEntry where
  channel : ChannelId
  state : ReportedState
  limit : LimitState
  settledPresent : Bool
  lastValue : BitVec 32
  lastFlags : Quality
  lastSequence : BitVec 16
  settledValue : BitVec 32
  deriving DecidableEq, Repr

/-! ### Notices (09) -/

inductive NoticeKind where
  | syncState
  | sample
  | settled
  | limit
  | stale
  | queueLevel
  | queueOverflow
  | roster
  | mapApplied
  deriving DecidableEq, Repr

inductive LimitCause where
  | settle
  | set
  deriving DecidableEq, Repr

/-- The six payload fields of SYNC_STATE (R38). -/
structure SyncReport where
  mode : SyncMode
  phase : Phase
  major : MajorState
  selected : Option Slot
  polarity : Polarity
  reason : SyncReason
  deriving DecidableEq, Repr

/-- A raise: its kind (the constructor), its subject (the first field) and its payload (R166, R167). -/
inductive Raise where
  | syncState (stream : StreamId) (report : SyncReport)
  | sample (channel : ChannelId) (record : Sample)
  | settled (channel : ChannelId) (new : Settled) (previous : Option (BitVec 32)) (sequence : BitVec 32) (stamp : Time)
  | limit (channel : ChannelId) (old new : LimitState) (value : Settled) (cause : LimitCause)
  | stale (channel : ChannelId) (reason : StaleReason) (sequence : BitVec 32) (stamp : Time)
  | queueLevel (channel : ChannelId) (fill watermark : Nat) (sequence : BitVec 32)
  | queueOverflow (channel : ChannelId) (policy : OverflowPolicy) (lost : BitVec 32) (dropped fill : Nat)
  | roster (roster : RosterId) (stream : StreamId) (majorCount : BitVec 32) (entries : List RosterEntry)
  | mapApplied (stream : StreamId) (edits committed : Nat)
  deriving DecidableEq, Repr

/-- A pending notice (R165): the newest raise merged into it, which carries kind, subject and payload, and its
coalesced count. -/
structure Notice where
  content : Raise
  coalesced : Nat
  deriving DecidableEq, Repr

/-- The Notice Unit (R164); bit n of the mask enables kind 0x40+n. -/
structure NoticeUnit where
  queue : List Notice
  mask : BitVec 9
  credits : Nat
  dropped : Nat
  nextSeq : BitVec 16
  deriving DecidableEq, Repr

/-! ### The host link (10) -/

inductive RxMode where
  | seek
  | length
  | body
  | check
  deriving DecidableEq, Repr

/-- The link receiver (section 10.2); `length` is 0 while it is not known. -/
structure Receiver where
  mode : RxMode
  buffer : List Byte
  length : Nat
  gapTimer : Option Time
  deriving DecidableEq, Repr

/-- A valid request frame's body (R203, Bodies): its kind, its tag and its payload. -/
structure Request where
  kind : Byte
  tag : Byte
  payload : List Byte
  deriving DecidableEq, Repr

/-- A reply cache entry (R194). -/
structure CacheEntry where
  tag : Byte
  kind : Byte
  body : List Byte
  deriving DecidableEq, Repr

/-- A waiting READY (R196). -/
inductive Ready where
  | powerOn
  | request (tag : Byte)
  deriving DecidableEq, Repr

/-- The link rates of section 10.9. -/
inductive LinkRate where
  | r115200
  | r460800
  | r921600
  | r3000000
  deriving DecidableEq, Repr

/-! ### The machine -/

/-- The whole part. `pending` is the queue of commands that wait for it and `draws` numbers the free values
(`Config.unstated`) already used: both are the model's own (INVENTORY, State). -/
structure State where
  timebase : Time
  linkRate : LinkRate
  rx : Receiver
  inbound : List Request
  replies : List (List Byte)
  cache : List CacheEntry
  ready : Option Ready
  tx : Option (List Byte)
  profiles : Vector (Option Profile) 4
  syn : PerStream Syn
  trk : PerStream Tracker
  map : List MapEntry
  stage : PerStream EditStage
  channels : Vector (Option Channel) 128
  poolFree : Nat
  rosters : Vector Roster 4
  notices : NoticeUnit
  draws : Nat
  pending : List Instr
  deriving DecidableEq, Repr

/-- Why a command stops the model. -/
inductive Fault where
  /-- Raised by STALE_TIMER_EXPIRY for a channel outside 0..127: the part has no such timer (R94, R110; log 17).
  Safe: the part cannot take such a step. -/
  | noSuchChannel (channel : Nat)
  deriving DecidableEq, Repr

/-- Why a command has no meaning. -/
inductive Refusal where
  /-- Raised by an arm of `exec` whose row has no meaning yet. Safe. No arm of this model raises it. -/
  | notModelled (mnemonic : String)
  deriving DecidableEq, Repr

/-! ### Reset -/

/-- R41. -/
def Syn.reset : Syn where
  mode := .off
  phase := .strict
  armed := 0
  selected := none
  polarity := .normal
  verifyCount := 0
  missCount := 0
  bitsToSync := 0
  frameTime := none
  window := 0
  windowTimer := none
  idleTimeout := 1
  idleTimer := none
  bitsFlowing := false
  history := 0
  fill := 0
  locksAcquired := 0
  framesProcessed := 0
  framesCoasted := 0
  checkFailures := 0
  lastReason := none

/-- No frame flag set. -/
def FrameFlags.clear : FrameFlags := ⟨false, false, false, false⟩

/-- R67. DESIGN CHOICE (log 9): the word position, word bits, word and frame timestamp, for which no rule gives a
reset value, are 0. -/
def Tracker.reset : Tracker where
  major := .noMajor
  profile := none
  polarity := .normal
  previousId := none
  mismatch := 0
  frameId := none
  extracting := false
  wordPos := 0
  wordBits := 0
  word := 0
  checkReg := 0
  flags := .clear
  frameStamp := 0
  assembly := []
  staging := []
  majorCount := 0
  lastId := none

/-- R90. -/
def EditStage.reset : EditStage := ⟨[], false, 0⟩

/-- R163. -/
def Roster.reset : Roster := ⟨[], .idle, .s0, 1, 0⟩

/-- R182. -/
def NoticeUnit.reset : NoticeUnit := ⟨[], 0, 0, 0, 0⟩

/-- R187. -/
def Receiver.reset : Receiver := ⟨.seek, [], 0, none⟩

/-- The part right after a power-on reset (R197), with nothing waiting for it.
DESIGN CHOICE (log 8): the straps sampled are 0, 0, the link rate 115200 bit/s. -/
def State.reset : State where
  timebase := 0
  linkRate := .r115200
  rx := .reset
  inbound := []
  replies := []
  cache := []
  ready := some .powerOn
  tx := none
  profiles := Vector.replicate 4 none
  syn := ⟨.reset, .reset⟩
  trk := ⟨.reset, .reset⟩
  map := []
  stage := ⟨.reset, .reset⟩
  channels := Vector.replicate 128 none
  poolFree := Config.sampleSlots
  rosters := Vector.replicate 4 .reset
  notices := .reset
  draws := 0
  pending := []

end Sys2Proof.Machine
end

