-- ==== Sys2Proof/Machine/Flags.lean ====
section
/-! DEFINITION. Flags and bit sets: quality flags, latches, notice sets, the kind mask (R66, R95, R131, R172, section 10.8). -/

namespace Sys2Proof

/-- The number of a stream (00, Terms: streams 0 and 1). -/
def StreamId.index : StreamId → Nat
  | .s0 => 0
  | .s1 => 1

/-- The other stream. -/
def StreamId.other : StreamId → StreamId
  | .s0 => .s1
  | .s1 => .s0

/-- The stream a link field names, once it is known to be 0 or 1. -/
def StreamId.ofField (n : Nat) : StreamId := if n = 0 then .s0 else .s1

end Sys2Proof

namespace Sys2Proof.Machine

/-- R66: a sample with none of the five flags. -/
def Quality.clear : Quality := ⟨false, false, false, false, false⟩

/-- R66, R117: none of PARITY, CHECK_FAIL, COASTED and ID_PREDICTED; INVERTED does not count. -/
def Quality.good (q : Quality) : Bool := !(q.parity || q.checkFail || q.coasted || q.idPredicted)

/-- One bit of a flag byte. -/
def flagBit (n : Nat) (set : Bool) : Byte := if set then 1#8 <<< n else 0

/-- Section 10.8, Sample record: bit 7 PARITY, 6 CHECK_FAIL, 5 COASTED, 4 ID_PREDICTED, 3 INVERTED, bits 2..0 read 0. -/
def Quality.code (q : Quality) : Byte :=
  flagBit 7 q.parity ||| flagBit 6 q.checkFail ||| flagBit 5 q.coasted ||| flagBit 4 q.idPredicted ||| flagBit 3 q.inverted

/-- The seven latches with their bits (section 10.8). -/
def latchSeen : BitVec 7 := 0b0000001
def latchParitySeen : BitVec 7 := 0b0000010
def latchCheckSeen : BitVec 7 := 0b0000100
def latchCoastSeen : BitVec 7 := 0b0001000
def latchLowSeen : BitVec 7 := 0b0010000
def latchHighSeen : BitVec 7 := 0b0100000
def latchOverflowSeen : BitVec 7 := 0b1000000

/-- R108 step 3, R131: the latches a released sample sets by its flags. -/
def Quality.latches (q : Quality) : BitVec 7 :=
  latchSeen ||| (if q.parity then latchParitySeen else 0) ||| (if q.checkFail then latchCheckSeen else 0)
    ||| (if q.coasted then latchCoastSeen else 0)

/-- R130, R132: the latch an entry to a limit state sets. -/
def LimitState.latch : LimitState → BitVec 7
  | .normal => 0
  | .low => latchLowSeen
  | .high => latchHighSeen

/-- Section 10.8: the bit of a notice kind in the kind mask; its code is 0x40 plus this. -/
def NoticeKind.index : NoticeKind → Nat
  | .syncState => 0
  | .sample => 1
  | .settled => 2
  | .limit => 3
  | .stale => 4
  | .queueLevel => 5
  | .queueOverflow => 6
  | .roster => 7
  | .mapApplied => 8

/-- Section 10.8: the bit of a channel kind in a channel's notice set is one below its bit in the mask. -/
def ChannelSettings.notes (t : ChannelSettings) (k : NoticeKind) : Bool := t.noticeSet.getLsbD (k.index - 1)

/-- R166: the kind of a raise. -/
def Raise.kind : Raise → NoticeKind
  | .syncState .. => .syncState
  | .sample .. => .sample
  | .settled .. => .settled
  | .limit .. => .limit
  | .stale .. => .stale
  | .queueLevel .. => .queueLevel
  | .queueOverflow .. => .queueOverflow
  | .roster .. => .roster
  | .mapApplied .. => .mapApplied

/-- R166: the subject of a raise, a plain number of the kind's subject type. -/
def Raise.subject : Raise → Nat
  | .syncState i _ => i.index
  | .sample c _ => c.val
  | .settled c _ _ _ _ => c.val
  | .limit c _ _ _ _ => c.val
  | .stale c _ _ _ => c.val
  | .queueLevel c _ _ _ => c.val
  | .queueOverflow c _ _ _ _ => c.val
  | .roster r _ _ _ => r.val
  | .mapApplied i _ _ => i.index

/-- R166: two raises are about the same notice when kind and subject number agree. -/
def Raise.sameNotice (a b : Raise) : Bool := decide (a.kind = b.kind ∧ a.subject = b.subject)

/-- R172: whether the mask enables a kind. -/
def NoticeUnit.enabled (n : NoticeUnit) (k : NoticeKind) : Bool := n.mask.getLsbD k.index


end Sys2Proof.Machine
end

