-- ==== Sys2Proof/Machine/Wire.lean ====
section
/-! DEFINITION. The bytes of the host link: big-endian fields, codes, the frame and its check (R184, R203, section 10.8). -/

namespace Sys2Proof.Machine

/-- R203: a field of `n` bytes, most significant byte first. -/
def be : Nat → Nat → List Byte
  | 0, _ => []
  | n + 1, v => be n (v / 256) ++ [BitVec.ofNat 8 v]

/-- R203: the unsigned number a field's bytes spell, most significant byte first. -/
def readBE (bs : List Byte) : Nat := bs.foldl (fun acc b => acc * 256 + b.toNat) 0

/-- The field of `size` bytes at an offset of a payload. -/
def fieldAt (payload : List Byte) (offset size : Nat) : Nat := readBE ((payload.drop offset).take size)

/-- A field of one byte. -/
def byte (v : Nat) : List Byte := [BitVec.ofNat 8 v]

/-- R203: yes is 1, no is 0. -/
def yesNo (b : Bool) : List Byte := byte b.toNat

/-- R203: none in a one-byte field reads 0xFF. -/
def byteOrNone (v : Option Nat) : List Byte := byte (v.getD 0xFF)

/-- R203: none in a two-byte field reads 0xFFFF. -/
def wordOrNone (v : Option Nat) : List Byte := be 2 (v.getD 0xFFFF)

/-- One step of a 16-bit check register: the top bit is compared with the incoming bit, the register shifts left,
and the polynomial is combined when they differed (R6, R184). -/
def crcBit (poly reg : BitVec 16) (bit : Bool) : BitVec 16 :=
  if reg.msb != bit then (reg <<< 1) ^^^ poly else reg <<< 1

/-- The bits of a byte, most significant first. -/
def byteBits (b : Byte) : List Bool :=
  [b.getLsbD 7, b.getLsbD 6, b.getLsbD 5, b.getLsbD 4, b.getLsbD 3, b.getLsbD 2, b.getLsbD 1, b.getLsbD 0]

/-- R184: the link check, polynomial 0x1021 from 0xFFFF, over the covered bytes. -/
def linkCheck (covered : List Byte) : BitVec 16 :=
  covered.foldl (fun reg b => (byteBits b).foldl (crcBit 0x1021) reg) 0xFFFF

/-- R184: the start byte. -/
def startByte : Byte := 0xD5

/-- R184: the frame of a body: start, length, body, check over length and body. -/
def linkFrame (body : List Byte) : List Byte :=
  startByte :: (be 2 body.length ++ body ++ be 2 (linkCheck (be 2 body.length ++ body)).toNat)

/-! ### Codes (section 10.8) -/

def SyncMode.code : SyncMode → Nat
  | .off => 0
  | .hunt => 1
  | .verify => 2
  | .locked => 3
  | .coast => 4
  | .stopped => 5

def Phase.code : Phase → Nat
  | .strict => 0
  | .relaxed => 1

def Polarity.code : Polarity → Nat
  | .normal => 0
  | .inverted => 1

def MajorState.code : MajorState → Nat
  | .noMajor => 0
  | .majorSearch => 1
  | .majorLocked => 2

def SyncReason.code : SyncReason → Nat
  | .armed => 0
  | .disarmed => 1
  | .verified => 2
  | .miss => 3
  | .recovered => 4
  | .misses => 5
  | .idle => 6
  | .windowRelaxed => 7
  | .windowStopped => 8
  | .majorGained => 9
  | .majorLost => 10
  | .reset => 11

def StaleReason.code : StaleReason → Nat
  | .timeout => 0
  | .lockLost => 1
  | .majorLost => 2
  | .disarmed => 3

def LimitState.code : LimitState → Nat
  | .normal => 0
  | .low => 1
  | .high => 2

def LimitCause.code : LimitCause → Nat
  | .settle => 0
  | .set => 1

def OverflowPolicy.code : OverflowPolicy → Nat
  | .keepOldest => 0
  | .keepNewest => 1

def RosterMode.code : RosterMode → Nat
  | .idle => 0
  | .periodic => 1

def ReportedState.code : ReportedState → Nat
  | .noData => 0
  | .current => 1
  | .stale => 2
  | .unbound => 3

def IdDirection.code : IdDirection → Nat
  | .up => 0
  | .down => 1

def ParityKind.code : ParityKind → Nat
  | .noParity => 0
  | .odd => 1
  | .even => 2

def CheckKind.code : CheckKind → Nat
  | .noCheck => 0
  | .crc16 => 1

/-! ### Records -/

/-- Section 10.8, Sample record: 20 bytes. -/
def Sample.bytes (r : Sample) : List Byte :=
  be 4 r.sequence.toNat ++ be 4 r.value.toNat ++ [r.flags.code, r.frameId] ++ be 4 r.majorCount.toNat ++ be 6 r.stamp.toNat

/-- Section 10.8, Roster entry: 13 bytes. -/
def RosterEntry.bytes (e : RosterEntry) : List Byte :=
  byte e.channel.val ++ byte (e.state.code * 64 + e.limit.code * 16 + e.settledPresent.toNat * 8)
    ++ be 4 e.lastValue.toNat ++ [e.lastFlags.code] ++ be 2 e.lastSequence.toNat ++ be 4 e.settledValue.toNat

/-- R93: a committed entry in 12 bytes, laid out as the MAP_ADD payload. -/
def MapEntry.bytes (e : MapEntry) : List Byte :=
  byte e.stream.index ++ byte e.profile.val ++ be 2 e.position ++ be 2 e.first ++ be 2 e.step ++ byte e.channel.val
    ++ byte e.fragment ++ byte e.offset ++ byte e.width

/-- R14, section 10.8: fields 1 to 17 of a LOADED slot, 27 bytes; absent ID fields read 0. -/
def Profile.bytes (p : Profile) : List Byte :=
  byte p.wordLength ++ byte p.syncLength ++ be 8 p.syncPattern.toNat ++ be 2 p.frameWords ++ be 2 p.majorLength
    ++ be 2 (p.idPosition.getD 0) ++ byte (p.idWidth.getD 0) ++ byte p.idBase ++ byte p.idDirection.code
    ++ byte p.parity.code ++ byte p.check.code ++ byte p.huntErrors ++ byte p.relaxedErrors ++ byte p.lockErrors
    ++ byte p.verifyFrames ++ byte p.coastFrames ++ yesNo p.acceptInverted

/-- DESIGN CHOICE (log 10): the bytes of the `n`-th field whose presence flag marks it absent, a free value. -/
def absent (n size : Nat) : List Byte := be size (Config.unstated n).toNat

/-- Section 10.8, Notice payloads: the payload after the header. `draw` numbers the free value that the previous value
of a SETTLED with none before it takes (log 10). -/
def Raise.bytes (draw : Nat) : Raise → List Byte
  | .syncState i r =>
    byte i.index ++ byte r.mode.code ++ byte r.phase.code ++ byte r.major.code ++ byteOrNone (r.selected.map Fin.val)
      ++ byte r.polarity.code ++ byte r.reason.code
  | .sample c r => byte c.val ++ r.bytes
  | .settled c new previous sequence stamp =>
    byte c.val ++ be 4 new.value.toNat ++ byte new.width
      ++ (match previous with
          | some v => be 4 v.toNat
          | none => absent draw 4)
      ++ yesNo previous.isSome ++ be 4 sequence.toNat ++ be 6 stamp.toNat
  | .limit c old new value cause =>
    byte c.val ++ byte old.code ++ byte new.code ++ be 4 value.value.toNat ++ byte value.width ++ byte cause.code
  | .stale c reason sequence stamp => byte c.val ++ byte reason.code ++ be 4 sequence.toNat ++ be 6 stamp.toNat
  | .queueLevel c fill watermark sequence => byte c.val ++ be 2 fill ++ be 2 watermark ++ be 4 sequence.toNat
  | .queueOverflow c policy lost dropped fill =>
    byte c.val ++ byte policy.code ++ be 4 lost.toNat ++ be 2 dropped ++ be 2 fill
  | .roster r i count entries =>
    byte r.val ++ byte i.index ++ be 4 count.toNat ++ byte entries.length ++ entries.flatMap RosterEntry.bytes
  | .mapApplied i edits committed => byte i.index ++ byte edits ++ be 2 committed

/-- Section 10.8, Bodies: a notice body, its kind, notice sequence, dropped-before, coalesced count and payload. -/
def Notice.body (draw : Nat) (n : Notice) (sequence : BitVec 16) (droppedBefore : Nat) : List Byte :=
  byte (0x40 + n.content.kind.index) ++ be 2 sequence.toNat ++ be 2 droppedBefore ++ byte n.coalesced
    ++ n.content.bytes draw

/-- Section 10.8, Bodies: the READY body. -/
def Ready.body (r : Ready) : List Byte :=
  byte 0x7F
    ++ (match r with
        | .powerOn => byte 0 ++ byte 0 ++ byte 0
        | .request tag => byte 1 ++ byte 1 ++ [tag])
    ++ be 2 Config.partCode ++ byte Config.revision

/-! ### Replies -/

/-- The status codes (R191). -/
inductive Status where
  | ok
  | accepted
  | badKind
  | badLength
  | badValue
  | noSuch
  | inUse
  | noRoom
  | busy
  | wrongState
  | invalidMap
  deriving DecidableEq, Repr

/-- R191. -/
def Status.code : Status → Nat
  | .ok => 0x00
  | .accepted => 0x01
  | .badKind => 0x10
  | .badLength => 0x11
  | .badValue => 0x12
  | .noSuch => 0x13
  | .inUse => 0x14
  | .noRoom => 0x15
  | .busy => 0x16
  | .wrongState => 0x17
  | .invalidMap => 0x18

/-- What a request answers: a status and the payload that goes with it (R193). -/
structure Reply where
  status : Status
  payload : List Byte
  deriving DecidableEq, Repr

/-- R203, R192: the reply kind, the request kind plus 0x80, or 0xC0 for a kind outside 0x01..0x3F. -/
def replyKind (kind : Byte) : Byte :=
  if 0x01 ≤ kind.toNat ∧ kind.toNat ≤ 0x3F then kind + 0x80 else 0xC0

/-- Section 10.8, Bodies: a reply body. -/
def Reply.body (r : Reply) (q : Request) : List Byte :=
  replyKind q.kind :: q.tag :: (byte r.status.code ++ r.payload)

/-- R193: BAD_VALUE carries the index of the offending field. -/
def Reply.badValue (index : Nat) : Reply := ⟨.badValue, byte index⟩

/-- An OK reply. -/
def Reply.ok (payload : List Byte) : Reply := ⟨.ok, payload⟩

/-- A refusal whose entry names no payload (R193). -/
def Reply.plain (status : Status) : Reply := ⟨status, []⟩

end Sys2Proof.Machine
end

