-- ==== Sys2Proof/Machine/Ops.lean ====
section
/-! DEFINITION. The named operations over State: per-stream records, channels, timers, the transmitter's choice and a send, raises, the
reply path. -/

namespace Sys2Proof.Machine

/-! ### Per-stream records -/

/-- The value of one stream. -/
def PerStream.get {α : Type} (p : PerStream α) : StreamId → α
  | .s0 => p.s0
  | .s1 => p.s1

/-- One stream's value replaced; the other stream's stays (02, 03: the two share no state). -/
def PerStream.set {α : Type} (p : PerStream α) (i : StreamId) (v : α) : PerStream α :=
  match i with
  | .s0 => { p with s0 := v }
  | .s1 => { p with s1 := v }

def State.setSyn (s : State) (i : StreamId) (y : Syn) : State := { s with syn := s.syn.set i y }

def State.setTrk (s : State) (i : StreamId) (t : Tracker) : State := { s with trk := s.trk.set i t }

def State.setStage (s : State) (i : StreamId) (g : EditStage) : State := { s with stage := s.stage.set i g }

/-! ### Profiles, channels, rosters -/

/-- The contents of a slot, none when EMPTY (R1). -/
def State.profile (s : State) (k : Slot) : Option Profile := s.profiles[k.val]

def State.setProfile (s : State) (k : Slot) (p : Option Profile) : State :=
  { s with profiles := s.profiles.set k.val p }

/-- A channel's record, none when UNBOUND (R94). -/
def State.channel (s : State) (c : ChannelId) : Option Channel := s.channels[c.val]

def State.setChannel (s : State) (c : ChannelId) (r : Option Channel) : State :=
  { s with channels := s.channels.set c.val r }

/-- Every bound channel's record passed through `f`, the unbound left as they are. -/
def State.mapChannels (s : State) (f : ChannelId → Channel → Channel) : State :=
  { s with channels := Vector.ofFn fun c => (s.channel c).map (f c) }

/-- The channels in increasing channel number. -/
def allChannels : List ChannelId := List.finRange 128

/-- The slots in increasing number. -/
def allSlots : List Slot := List.finRange 4

/-- The rosters in roster number order. -/
def allRosters : List RosterId := List.finRange 4

def State.roster (s : State) (r : RosterId) : Roster := s.rosters[r.val]

def State.setRoster (s : State) (r : RosterId) (v : Roster) : State := { s with rosters := s.rosters.set r.val v }

/-! ### Timers (R198) -/

/-- Microseconds from a Timebase value to a later one, counted modulo 2^48 (R198). -/
def elapsed (now start : Time) : Nat := (now - start).toNat

/-- R198: a timer started at `start` expires when the Timebase has advanced by its length, `ms` milliseconds. -/
def due (now start : Time) (ms : Nat) : Bool := decide (ms * 1000 ≤ elapsed now start)

/-- R27, R105: the whole milliseconds remaining, rounded down. -/
def remainingMs (now start : Time) (ms : Nat) : Nat := (ms * 1000 - elapsed now start) / 1000

/-- A timer's expiry takes place when the timer runs and its length has passed. -/
def timerDue (now : Time) (timer : Option Time) (ms : Nat) : Bool :=
  match timer with
  | some start => due now start ms
  | none => false

/-- R27, R110: a timer of length 0 stays stopped; any other starts now. -/
def startTimer (now : Time) (ms : Nat) : Option Time := if ms = 0 then none else some now

/-! ### The transmitter's choice and a send (R195, R178) -/

/-- What the transmitter may begin to send. -/
inductive FrameChoice where
  | ready
  | reply
  | notice
  deriving DecidableEq, Repr

/-- R195: the choice of the next frame when none is in progress: the READY, the oldest reply, a notice, nothing. -/
def State.nextFrame (s : State) : Option FrameChoice :=
  if s.tx.isSome then none
  else if s.ready.isSome then some .ready
  else if s.replies ≠ [] then some .reply
  else if s.notices.queue ≠ [] ∧ 0 < s.notices.credits then some .notice
  else none

/-- R178: the head notice leaves the queue and takes a credit, a sequence and the dropped-before count. -/
def State.noticeSend (s : State) : State :=
  if s.nextFrame = some .notice then
    match s.notices.queue with
    | n :: rest =>
      { s with
        notices :=
          { s.notices with
            queue := rest
            credits := s.notices.credits - 1
            nextSeq := s.notices.nextSeq + 1
            dropped := 0 }
        tx := some (linkFrame (n.body s.draws s.notices.nextSeq s.notices.dropped))
        draws := s.draws + 1 }
    | [] => s
  else s

/-- R178, R180, R183: a point inside a step at which the transmitter may begin the head notice; whether it does is a free value
(log 6, log 27, log 11). -/
def State.sendInside (s : State) : State :=
  if s.nextFrame = some .notice then
    if Config.beginsNotice s.draws then { s with draws := s.draws + 1 }.noticeSend else { s with draws := s.draws + 1 }
  else s

/-! ### Raises (R168 to R171) -/

/-- R169: a raise merged into a pending notice replaces the payload, keeps the place and counts up to 255. -/
def Notice.merge (n : Notice) (r : Raise) : Notice := ⟨r, min (n.coalesced + 1) Config.maxCoalesced⟩

/-- R168: one raise at the Notice Unit, by the first case that holds: refused by the mask, merged, appended, dropped. -/
def NoticeUnit.take (n : NoticeUnit) (r : Raise) : NoticeUnit :=
  if !n.enabled r.kind then n
  else if n.queue.any (fun m => m.content.sameNotice r) then
    { n with queue := n.queue.map fun m => if m.content.sameNotice r then m.merge r else m }
  else if n.queue.length < Config.noticeSlots then { n with queue := n.queue ++ [⟨r, 0⟩] }
  else { n with dropped := min (n.dropped + 1) Config.maxDropped }

/-- R180: a send taken before the raise leaves the unit otherwise than one taken after it: the raise would merge into the head, or
finds the queue full and would be dropped. -/
def NoticeUnit.sendMatters (n : NoticeUnit) (r : Raise) : Bool :=
  n.enabled r.kind &&
    match n.queue with
    | [] => false
    | head :: rest =>
      head.content.sameNotice r
        || (decide (Config.noticeSlots ≤ rest.length + 1) && !rest.any fun m => m.content.sameNotice r)

/-- R168, R178: one raise of a step, before which a notice that an earlier one left at the head may have been sent. -/
def State.raiseOne (s : State) (r : Raise) : State :=
  let u := if s.notices.sendMatters r then s.sendInside else s
  { u with notices := u.notices.take r }

/-- R167: raises of one step reach the unit in the order the step gives them. -/
def State.raiseAll (s : State) (rs : List Raise) : State := rs.foldl State.raiseOne s

/-- R38: the payload of a SYNC_STATE of a stream, as its records stand. -/
def State.syncReport (s : State) (i : StreamId) (reason : SyncReason) : SyncReport where
  mode := (s.syn.get i).mode
  phase := (s.syn.get i).phase
  major := (s.trk.get i).major
  selected := (s.syn.get i).selected
  polarity := (s.syn.get i).polarity
  reason := reason

/-- R38: a SYNC_STATE raise sets the stream's last reason and goes to the Notice Unit. -/
def State.raiseSync (s : State) (i : StreamId) (reason : SyncReason) : State :=
  (s.setSyn i { s.syn.get i with lastReason := some reason }).raiseAll [.syncState i (s.syncReport i reason)]

/-! ### Extraction active (R72) -/

/-- The synchronizer holds lock: LOCKED or COAST. -/
def Syn.holdsLock (y : Syn) : Bool := decide (y.mode = .locked ∨ y.mode = .coast)

/-- R72: extraction is active when the synchronizer is LOCKED or COAST and the tracker MAJOR_LOCKED. -/
def State.extractionActive (s : State) (i : StreamId) : Bool :=
  (s.syn.get i).holdsLock && decide ((s.trk.get i).major = .majorLocked)

/-! ### The reply path (R189, R190, R194) -/

/-- R194: a reply placed in the cache, oldest entry first. -/
def placeInCache (cache : List CacheEntry) (e : CacheEntry) : List CacheEntry :=
  if cache.any (fun x => x.tag == e.tag) then cache.filter (fun x => x.tag != e.tag) ++ [e]
  else if cache.length < Config.cacheSlots then cache ++ [e]
  else cache.tail ++ [e]

/-- R190: the entry with the request's tag and kind. -/
def State.cached (s : State) (q : Request) : Option CacheEntry :=
  s.cache.find? fun e => e.tag == q.tag && e.kind == q.kind

/-- R189, R194: the reply goes to the outbound reply queue and, with the request's tag and kind, into the cache. -/
def State.answer (s : State) (q : Request) (r : Reply) : State :=
  { s with replies := s.replies ++ [r.body q], cache := placeInCache s.cache ⟨q.tag, q.kind, r.body q⟩ }

end Sys2Proof.Machine
end

