-- ==== Sys2Proof/Machine/Operands.lean ====
section
/-! DEFINITION. The operands of a request: the kind codes, the payload lengths and the fields of every request payload,
with the range checks that name the first offending field (R9, R10, R192, R203, section 10.8). -/

namespace Sys2Proof.Machine

/-! ### Kind codes (section 10.8) -/

def kindPing : Byte := 0x01
def kindTimeGet : Byte := 0x02
def kindReset : Byte := 0x03
def kindProfileLoad : Byte := 0x08
def kindProfileDrop : Byte := 0x09
def kindProfileRead : Byte := 0x0A
def kindStreamArm : Byte := 0x10
def kindStreamDisarm : Byte := 0x11
def kindStreamStatus : Byte := 0x12
def kindMapAdd : Byte := 0x18
def kindMapRemove : Byte := 0x19
def kindMapCommit : Byte := 0x1A
def kindMapDiscard : Byte := 0x1B
def kindMapList : Byte := 0x1C
def kindChannelBind : Byte := 0x20
def kindChannelUnbind : Byte := 0x21
def kindChannelSet : Byte := 0x22
def kindChannelRead : Byte := 0x23
def kindChannelClear : Byte := 0x24
def kindQueueDrain : Byte := 0x28
def kindRosterSet : Byte := 0x30
def kindRosterRead : Byte := 0x31
def kindRosterStart : Byte := 0x32
def kindRosterStop : Byte := 0x33
def kindNoticeMask : Byte := 0x38
def kindNoticeGrant : Byte := 0x39

/-- R192, section 10.8: the payload lengths of each request, smallest and largest. -/
def requestLengths : List (Byte × Nat × Nat) :=
  [(kindPing, 0, 0), (kindTimeGet, 0, 0), (kindReset, 1, 1), (kindProfileLoad, 28, 28), (kindProfileDrop, 1, 1),
   (kindProfileRead, 1, 1), (kindStreamArm, 6, 6), (kindStreamDisarm, 1, 1), (kindStreamStatus, 1, 1),
   (kindMapAdd, 12, 12), (kindMapRemove, 4, 4), (kindMapCommit, 1, 1), (kindMapDiscard, 1, 1), (kindMapList, 2, 2),
   (kindChannelBind, 9, 9), (kindChannelUnbind, 1, 1), (kindChannelSet, 20, 20), (kindChannelRead, 1, 1),
   (kindChannelClear, 3, 3), (kindQueueDrain, 2, 2), (kindRosterSet, 1, 17), (kindRosterRead, 1, 1),
   (kindRosterStart, 3, 3), (kindRosterStop, 1, 1), (kindNoticeMask, 2, 2), (kindNoticeGrant, 1, 1)]

/-- R192: the kind byte names a request. -/
def kindKnown (kind : Byte) : Bool := requestLengths.any fun r => r.1 == kind

/-- R192: the payload length is one the kind allows. -/
def lengthAllowed (kind : Byte) (len : Nat) : Bool :=
  requestLengths.any fun r => r.1 == kind && decide (r.2.1 ≤ len ∧ len ≤ r.2.2)

/-- R9, R191: checks made in order; the index of the first that fails. -/
def firstFailing : List (Nat × Bool) → Option Nat
  | [] => none
  | (index, bad) :: rest => if bad then some index else firstFailing rest

/-! ### PROFILE_LOAD -/

/-- The slot and the seventeen fields as they stand on the link (section 1.6). -/
structure LoadFields where
  slot : Nat
  wordLength : Nat
  syncLength : Nat
  pattern : Nat
  frameWords : Nat
  majorLength : Nat
  idPosition : Nat
  idWidth : Nat
  idBase : Nat
  idDirection : Nat
  parity : Nat
  check : Nat
  hunt : Nat
  relaxed : Nat
  lock : Nat
  verify : Nat
  coast : Nat
  inverted : Nat
  deriving DecidableEq, Repr

def readLoad (p : List Byte) : LoadFields where
  slot := fieldAt p 0 1
  wordLength := fieldAt p 1 1
  syncLength := fieldAt p 2 1
  pattern := fieldAt p 3 8
  frameWords := fieldAt p 11 2
  majorLength := fieldAt p 13 2
  idPosition := fieldAt p 15 2
  idWidth := fieldAt p 17 1
  idBase := fieldAt p 18 1
  idDirection := fieldAt p 19 1
  parity := fieldAt p 20 1
  check := fieldAt p 21 1
  hunt := fieldAt p 22 1
  relaxed := fieldAt p 23 1
  lock := fieldAt p 24 1
  verify := fieldAt p 25 1
  coast := fieldAt p 26 1
  inverted := fieldAt p 27 1

/-- R2: the sync words S = L/W of the fields. -/
def LoadFields.syncWords (f : LoadFields) : Nat := f.syncLength / f.wordLength

/-- R9, R10: the checks of fields 0 to 17 in index order; with M = 1 fields 6 and 7 are not examined. -/
def LoadFields.failing (f : LoadFields) : Option Nat :=
  firstFailing
    [(0, decide (3 < f.slot)),
     (1, decide (f.wordLength < 4 ∨ 16 < f.wordLength)),
     (2, decide (f.syncLength < 8 ∨ 64 < f.syncLength ∨ f.syncLength % f.wordLength ≠ 0)),
     (3, decide (2 ^ f.syncLength ≤ f.pattern)),
     (4, decide (f.frameWords < 1 ∨ 1024 < f.frameWords ∨ f.frameWords < f.syncWords + 1)),
     (5, decide (f.majorLength < 1 ∨ 256 < f.majorLength)),
     (6, decide (1 < f.majorLength ∧ (f.idPosition < 1 ∨ 1024 < f.idPosition ∨ f.idPosition < f.syncWords + 1
        ∨ f.frameWords < f.idPosition))),
     (7, decide (1 < f.majorLength ∧ (f.idWidth < 1 ∨ 16 < f.idWidth ∨ f.wordLength < f.idWidth
        ∨ 2 ^ f.idWidth < f.majorLength))),
     (8, decide (1 < f.idBase ∨ (1 < f.majorLength ∧ 2 ^ f.idWidth - 1 < f.idBase + f.majorLength - 1))),
     (9, decide (1 < f.idDirection)),
     (10, decide (2 < f.parity ∨ (1 < f.majorLength ∧ f.parity ≠ 0 ∧ f.wordLength - 1 < f.idWidth))),
     (11, decide (1 < f.check ∨ (f.check = 1 ∧ (f.wordLength ≠ 16 ∨ f.parity ≠ 0 ∨ f.frameWords < f.syncWords + 2
        ∨ (1 < f.majorLength ∧ f.idPosition = f.frameWords))))),
     (12, decide (7 < f.hunt)),
     (13, decide (7 < f.relaxed ∨ f.relaxed < f.hunt)),
     (14, decide (7 < f.lock)),
     (15, decide (f.verify < 1 ∨ 15 < f.verify)),
     (16, decide (15 < f.coast)),
     (17, decide (1 < f.inverted))]

/-- R12: the contents a slot takes; with M = 1 the ID position and width are absent. -/
def LoadFields.profile (f : LoadFields) : Profile where
  wordLength := f.wordLength
  syncLength := f.syncLength
  syncPattern := BitVec.ofNat 64 f.pattern
  frameWords := f.frameWords
  majorLength := f.majorLength
  idPosition := if f.majorLength = 1 then none else some f.idPosition
  idWidth := if f.majorLength = 1 then none else some f.idWidth
  idBase := f.idBase
  idDirection := if f.idDirection = 0 then .up else .down
  parity := if f.parity = 0 then .noParity else if f.parity = 1 then .odd else .even
  check := if f.check = 0 then .noCheck else .crc16
  huntErrors := f.hunt
  relaxedErrors := f.relaxed
  lockErrors := f.lock
  verifyFrames := f.verify
  coastFrames := f.coast
  acceptInverted := f.inverted == 1

/-! ### STREAM_ARM -/

structure ArmFields where
  stream : Nat
  set : Nat
  window : Nat
  idle : Nat
  deriving DecidableEq, Repr

def readArm (p : List Byte) : ArmFields := ⟨fieldAt p 0 1, fieldAt p 1 1, fieldAt p 2 2, fieldAt p 4 2⟩

/-- R34 check 1. -/
def ArmFields.failing (f : ArmFields) : Option Nat :=
  firstFailing [(0, decide (1 < f.stream)), (1, decide (f.set = 0 ∨ 15 < f.set)), (3, decide (f.idle < 1 ∨ 1000 < f.idle))]

/-! ### MAP_ADD and MAP_REMOVE -/

structure AddFields where
  stream : Nat
  profile : Nat
  position : Nat
  first : Nat
  step : Nat
  channel : Nat
  fragment : Nat
  offset : Nat
  width : Nat
  deriving DecidableEq, Repr

def readAdd (p : List Byte) : AddFields where
  stream := fieldAt p 0 1
  profile := fieldAt p 1 1
  position := fieldAt p 2 2
  first := fieldAt p 4 2
  step := fieldAt p 6 2
  channel := fieldAt p 8 1
  fragment := fieldAt p 9 1
  offset := fieldAt p 10 1
  width := fieldAt p 11 1

/-- R73 check 1. -/
def AddFields.failing (f : AddFields) : Option Nat :=
  firstFailing
    [(0, decide (1 < f.stream)), (1, decide (3 < f.profile)), (2, decide (f.position < 1 ∨ 1024 < f.position)),
     (3, decide (256 < f.first)), (4, decide (256 < f.step)), (5, decide (127 < f.channel)), (6, decide (3 < f.fragment)),
     (7, decide (15 < f.offset)), (8, decide (f.width < 1 ∨ 16 < f.width))]

/-- R73: the entry an accepted MAP_ADD stages. -/
def AddFields.entry (f : AddFields) : MapEntry where
  stream := .ofField f.stream
  profile := Fin.ofNat 4 f.profile
  position := f.position
  first := f.first
  step := f.step
  channel := Fin.ofNat 128 f.channel
  fragment := f.fragment
  offset := f.offset
  width := f.width

structure RemoveFields where
  stream : Nat
  channel : Nat
  profile : Nat
  fragment : Nat
  deriving DecidableEq, Repr

def readRemove (p : List Byte) : RemoveFields := ⟨fieldAt p 0 1, fieldAt p 1 1, fieldAt p 2 1, fieldAt p 3 1⟩

/-- R74: ranges, in index order; the fragment is 0..3 or ALL, which is 0xFF on the link. -/
def RemoveFields.failing (f : RemoveFields) : Option Nat :=
  firstFailing
    [(0, decide (1 < f.stream)), (1, decide (127 < f.channel)), (2, decide (3 < f.profile)),
     (3, decide (3 < f.fragment ∧ f.fragment ≠ 0xFF))]

/-- R74: the edit an accepted MAP_REMOVE stages. -/
def RemoveFields.edit (f : RemoveFields) : Edit :=
  if f.fragment = 0xFF then .removeAll (Fin.ofNat 128 f.channel) (Fin.ofNat 4 f.profile)
  else .remove (Fin.ofNat 128 f.channel) (Fin.ofNat 4 f.profile) f.fragment

/-! ### CHANNEL_BIND, CHANNEL_SET, CHANNEL_CLEAR, QUEUE_DRAIN -/

structure BindFields where
  channel : Nat
  stream : Nat
  fragments : Nat
  signed : Nat
  capacity : Nat
  policy : Nat
  watermark : Nat
  deriving DecidableEq, Repr

def readBind (p : List Byte) : BindFields where
  channel := fieldAt p 0 1
  stream := fieldAt p 1 1
  fragments := fieldAt p 2 1
  signed := fieldAt p 3 1
  capacity := fieldAt p 4 2
  policy := fieldAt p 6 1
  watermark := fieldAt p 7 2

/-- R98 check 1; the watermark is checked against the q of the same request. -/
def BindFields.failing (f : BindFields) : Option Nat :=
  firstFailing
    [(0, decide (127 < f.channel)), (1, decide (1 < f.stream)), (2, decide (f.fragments < 1 ∨ 4 < f.fragments)),
     (3, decide (1 < f.signed)), (4, decide (512 < f.capacity)), (5, decide (1 < f.policy)),
     (6, decide (f.capacity < f.watermark))]

/-- R94: the configuration an accepted CHANNEL_BIND stores. -/
def BindFields.config (f : BindFields) : ChannelConfig where
  stream := .ofField f.stream
  fragments := f.fragments
  signed := f.signed == 1
  capacity := f.capacity
  policy := if f.policy = 0 then .keepOldest else .keepNewest
  watermark := f.watermark

structure SetFields where
  channel : Nat
  settleCount : Nat
  deadband : Nat
  enabled : Nat
  low : Nat
  high : Nat
  hysteresis : Nat
  staleWindow : Nat
  noticeSet : Nat
  deriving DecidableEq, Repr

def readSet (p : List Byte) : SetFields where
  channel := fieldAt p 0 1
  settleCount := fieldAt p 1 1
  deadband := fieldAt p 2 2
  enabled := fieldAt p 4 1
  low := fieldAt p 5 4
  high := fieldAt p 9 4
  hysteresis := fieldAt p 13 4
  staleWindow := fieldAt p 17 2
  noticeSet := fieldAt p 19 1

/-- R102: the settings the request carries. -/
def SetFields.settings (f : SetFields) : ChannelSettings where
  settleCount := f.settleCount
  deadband := f.deadband
  limitsEnabled := f.enabled == 1
  low := BitVec.ofNat 32 f.low
  high := BitVec.ofNat 32 f.high
  hysteresis := BitVec.ofNat 32 f.hysteresis
  staleWindow := f.staleWindow
  noticeSet := BitVec.ofNat 6 f.noticeSet

structure ClearFields where
  channel : Nat
  parts : Nat
  latches : Nat
  deriving DecidableEq, Repr

def readClear (p : List Byte) : ClearFields := ⟨fieldAt p 0 1, fieldAt p 1 1, fieldAt p 2 1⟩

/-- Section 10.8, CHANNEL_CLEAR parts: bit 0 LATCHES, 1 VALUE, 2 QUEUE. -/
def ClearFields.namesLatches (f : ClearFields) : Bool := f.parts.testBit 0
def ClearFields.namesValue (f : ClearFields) : Bool := f.parts.testBit 1
def ClearFields.namesQueue (f : ClearFields) : Bool := f.parts.testBit 2

/-- R106 check 1; the latch set is read only when LATCHES is among the parts. -/
def ClearFields.failing (f : ClearFields) : Option Nat :=
  firstFailing
    [(0, decide (127 < f.channel)), (1, decide (f.parts = 0 ∨ 7 < f.parts)),
     (2, f.namesLatches && decide (127 < f.latches))]

structure DrainFields where
  channel : Nat
  max : Nat
  deriving DecidableEq, Repr

def readDrain (p : List Byte) : DrainFields := ⟨fieldAt p 0 1, fieldAt p 1 1⟩

/-- R145 check 1. -/
def DrainFields.failing (f : DrainFields) : Option Nat :=
  firstFailing [(0, decide (127 < f.channel)), (1, decide (f.max < 1 ∨ Config.drainLimit < f.max))]

/-! ### ROSTER_SET, ROSTER_START -/

/-- R154: the checks of the listed channels; `index` numbers the field, `seen` holds the channels before it. -/
def rosterListFailing (index : Nat) (seen : List Nat) : List Nat → Option Nat
  | [] => none
  | c :: rest => if 127 < c ∨ c ∈ seen then some index else rosterListFailing (index + 1) (c :: seen) rest

/-- R154: the roster number is field 0, the channels fields 1 to 16 in list order. -/
def rosterSetFailing (p : List Byte) : Option Nat :=
  if 3 < fieldAt p 0 1 then some 0 else rosterListFailing 1 [] (p.tail.map BitVec.toNat)

structure StartFields where
  roster : Nat
  stream : Nat
  period : Nat
  deriving DecidableEq, Repr

def readStart (p : List Byte) : StartFields := ⟨fieldAt p 0 1, fieldAt p 1 1, fieldAt p 2 1⟩

/-- R157. -/
def StartFields.failing (f : StartFields) : Option Nat :=
  firstFailing
    [(0, decide (3 < f.roster)), (1, decide (1 < f.stream)), (2, decide (f.period < 1 ∨ 255 < f.period))]

/-! ### Requests of one field -/

/-- A request whose one-byte field 0 must not exceed `max`. -/
def fieldZeroFailing (p : List Byte) (max : Nat) : Option Nat := if max < fieldAt p 0 1 then some 0 else none

end Sys2Proof.Machine
end

