-- ==== Sys2Proof/Machine/Executor.lean ====
section
/-! DEFINITION. The executor (10, sections 10.3 to 10.5): taking the request at the head of the inbound queue, the duplicate
test, the link-level checks and the reply. -/

namespace Sys2Proof.Machine

/-- R190: a duplicate is answered with a copy of the cached reply; the cache is left as it was. -/
def State.answerAgain (s : State) (e : CacheEntry) : State := { s with replies := s.replies ++ [e.body] }

/-- R189, R190: the request has left the inbound queue; a duplicate is answered again, any other goes to `act`. -/
def State.serve (s : State) (q : Request) (act : Request → State → State) : State :=
  match s.cached q with
  | some e => s.answerAgain e
  | none => act q s

/-- R189: the executor's step for a row. It takes place when the request at the head of the inbound queue is one the
row takes and the outbound reply queue has room (log 1, log 2). -/
def State.takeRequest (s : State) (wanted : Request → Bool) (act : Request → State → State) : State :=
  match s.inbound with
  | [] => s
  | q :: rest =>
    if s.replies.length < Config.replySlots ∧ wanted q = true then { s with inbound := rest }.serve q act else s

/-- R191 check 2, R192: a wrong payload length is answered BAD_LENGTH with the length received. -/
def badLength (q : Request) : Reply := ⟨.badLength, byte q.payload.length⟩

/-- R191: the length check, then the request's own checks and work, then its reply. -/
def runChecked (run : List Byte → State → Reply × State) (q : Request) (s : State) : State :=
  if lengthAllowed q.kind q.payload.length then (run q.payload s).2.answer q (run q.payload s).1
  else s.answer q (badLength q)

/-- The executor's step for a row that takes every request of one kind. -/
def State.executeKind (s : State) (kind : Byte) (run : List Byte → State → Reply × State) : State :=
  s.takeRequest (fun q => q.kind == kind) (runChecked run)

/-- R192: the reply to a kind byte that names no request. -/
def badKind (q : Request) : Reply := ⟨.badKind, [q.kind]⟩

/-- BAD_KIND (R192). -/
def execBadKind (s : State) : Host.Outcome State Fault Refusal :=
  .next (s.takeRequest (fun q => !kindKnown q.kind) fun q t => t.answer q (badKind q))

end Sys2Proof.Machine
end

