-- ==== Sys2Proof/Machine/Notices.lean ====
section
/-! DEFINITION. The Notice Unit's requests (09); the raise itself is `NoticeUnit.take` in Ops. -/

namespace Sys2Proof.Machine

/-- R173: the new mask is stored and every pending notice of a kind it disables is removed, uncounted. -/
def NoticeUnit.setMask (n : NoticeUnit) (mask : BitVec 9) : NoticeUnit :=
  { n with mask := mask, queue := n.queue.filter fun m => mask.getLsbD m.content.kind.index }

/-- R173. -/
def runNoticeMask (p : List Byte) (s : State) : Reply × State :=
  if 511 < fieldAt p 0 2 then (.badValue 0, s)
  else
    (.ok (be 2 s.notices.mask.toNat
        ++ byte (s.notices.queue.length - (s.notices.setMask (BitVec.ofNat 9 (fieldAt p 0 2))).queue.length)
        ++ byte (s.notices.setMask (BitVec.ofNat 9 (fieldAt p 0 2))).queue.length),
      { s with notices := s.notices.setMask (BitVec.ofNat 9 (fieldAt p 0 2)) })

/-- R177: the credits rise by n, to 255 at most. -/
def NoticeUnit.grant (n : NoticeUnit) (k : Nat) : NoticeUnit :=
  { n with credits := min (n.credits + k) Config.maxCredits }

/-- R177. -/
def runNoticeGrant (p : List Byte) (s : State) : Reply × State :=
  (.ok (byte (s.notices.grant (fieldAt p 0 1)).credits ++ byte s.notices.queue.length ++ be 2 s.notices.dropped),
    { s with notices := s.notices.grant (fieldAt p 0 1) })

/-- NOTICE_MASK (R173). -/
def execNoticeMask (s : State) : Host.Outcome State Fault Refusal := .next (s.executeKind kindNoticeMask runNoticeMask)

/-- NOTICE_GRANT (R177). -/
def execNoticeGrant (s : State) : Host.Outcome State Fault Refusal := .next (s.executeKind kindNoticeGrant runNoticeGrant)

end Sys2Proof.Machine
end

