-- ==== Sys2Proof/Machine/Link.lean ====
section
/-! DEFINITION. The host link (10): the receiver, the transmitter, the Timebase, PING and TIME_GET. -/

namespace Sys2Proof.Machine

/-! ### The receiver (R185 to R188) -/

/-- What one byte does at the receiver: it stays with a new state, completes a valid frame, or discards a bad one, whose
bytes after the start byte are to be taken again. -/
inductive RxOutcome where
  | stay (r : Receiver)
  | frame (body : List Byte)
  | discard (stored : List Byte)
  deriving DecidableEq, Repr

/-- R184: the check of a complete frame over its stored length and body bytes. `buffer` holds the whole frame. -/
def frameValid (buffer : List Byte) : Bool :=
  decide (readBE (buffer.drop (buffer.length - 2)) = (linkCheck (buffer.tail.take (buffer.length - 3))).toNat)

/-- R185, LENGTH: the first length byte is stored; the second forms the length. -/
def Receiver.takeLength (r : Receiver) (b : Byte) : RxOutcome :=
  if r.buffer.length < 2 then .stay { r with buffer := r.buffer ++ [b] }
  else if 2 ≤ readBE (r.buffer.tail ++ [b]) ∧ readBE (r.buffer.tail ++ [b]) ≤ 250 then
    .stay { r with mode := .body, buffer := r.buffer ++ [b], length := readBE (r.buffer.tail ++ [b]) }
  else .discard (r.buffer.tail ++ [b])

/-- R185, BODY: stored; CHECK follows when the body is complete. -/
def Receiver.takeBody (r : Receiver) (b : Byte) : RxOutcome :=
  if r.buffer.length + 1 < 3 + r.length then .stay { r with buffer := r.buffer ++ [b] }
  else .stay { r with mode := .check, buffer := r.buffer ++ [b] }

/-- R185, CHECK: the first check byte is stored; the second completes the frame, valid or not. -/
def Receiver.takeCheck (r : Receiver) (b : Byte) : RxOutcome :=
  if r.buffer.length + 1 < 5 + r.length then .stay { r with buffer := r.buffer ++ [b] }
  else if frameValid (r.buffer ++ [b]) then .frame ((r.buffer.drop 3).take r.length)
  else .discard (r.buffer.tail ++ [b])

/-- R185: one byte with a valid stop bit, by the receiver's state. -/
def Receiver.take (r : Receiver) (b : Byte) : RxOutcome :=
  match r.mode with
  | .seek => if b = startByte then .stay { r with mode := .length, buffer := [b] } else .stay r
  | .length => r.takeLength b
  | .body => r.takeBody b
  | .check => r.takeCheck b

/-- R185, R186: bytes taken one after another; a discarded frame's bytes after its start byte are taken again, in their
order, before those that follow. It answers the receiver and the bodies of the valid frames. The first argument bounds
the recursion (log 23). -/
def Receiver.takeBytes : Nat → Receiver → List Byte → Receiver × List (List Byte)
  | 0, r, _ => (r, [])
  | _ + 1, r, [] => (r, [])
  | n + 1, r, b :: bs =>
    match r.take b with
    | .stay r' => Receiver.takeBytes n r' bs
    | .frame body => ((Receiver.takeBytes n .reset bs).1, body :: (Receiver.takeBytes n .reset bs).2)
    | .discard stored => Receiver.takeBytes n .reset (stored ++ bs)

/-- A bound that no run of `takeBytes` on one byte reaches (log 23). -/
def Receiver.bound (r : Receiver) : Nat := (r.buffer.length + 2) * (r.buffer.length + 2)

/-- R203: the body of a request; the length of a valid frame's body is at least 2. -/
def Request.ofBody : List Byte → Option Request
  | kind :: tag :: payload => some ⟨kind, tag, payload⟩
  | [_] => none
  | [] => none

/-- R188: a body handed over joins the tail if fewer than 4 are held, and is discarded otherwise. -/
def enqueue (inbound : List Request) (body : List Byte) : List Request :=
  match Request.ofBody body with
  | none => inbound
  | some q => if inbound.length < Config.inboundSlots then inbound ++ [q] else inbound

/-- R185 to R188: a byte with a valid stop bit. Outside SEEK the gap timer runs from now, in SEEK it is stopped. -/
def State.takeByte (s : State) (b : Byte) : State :=
  let out := Receiver.takeBytes s.rx.bound s.rx [b]
  { s with
    rx := { out.1 with gapTimer := if out.1.mode = .seek then none else some s.timebase }
    inbound := out.2.foldl enqueue s.inbound }

/-- R187: the partial frame is discarded with no reply and no re-taking; in SEEK there is none. -/
def State.dropPartial (s : State) : State := if s.rx.mode = .seek then s else { s with rx := .reset }

/-- R185, R187: a byte completed on the line; one whose stop bit is low is not taken. -/
def State.byteArrival (s : State) (b : LineByte) : State := if b.stopHigh then s.takeByte b.value else s.dropPartial

/-- BYTE_ARRIVAL (R185, R187). -/
def execByteArrival (byte : LineByte) (s : State) : Host.Outcome State Fault Refusal := .next (s.byteArrival byte)

/-- FRAME_RECEIVED (R185 to R188): the bytes of a frame, one after another, each taken as a byte arrival (log 5). -/
def execFrameReceived (bytes : List LineByte) (s : State) : Host.Outcome State Fault Refusal :=
  .next (bytes.foldl State.byteArrival s)

/-- R187: the gap timer expires outside SEEK when it is due. -/
def State.gapExpiry (s : State) : State :=
  if timerDue s.timebase s.rx.gapTimer Config.gapMs then s.dropPartial else s

/-- GAP_TIMER_EXPIRY (R187). -/
def execGapTimerExpiry (s : State) : Host.Outcome State Fault Refusal := .next s.gapExpiry

/-! ### The transmitter (R195, R196, R178) -/

/-- R196: the waiting READY begins to be sent. -/
def State.sendReady (s : State) : State :=
  if s.nextFrame = some .ready then
    match s.ready with
    | some r => { s with ready := none, tx := some (linkFrame r.body) }
    | none => s
  else s

/-- SEND_READY (R196). -/
def execSendReady (s : State) : Host.Outcome State Fault Refusal := .next s.sendReady

/-- R195: the oldest reply leaves the queue as its sending begins. -/
def State.sendReply (s : State) : State :=
  if s.nextFrame = some .reply then
    match s.replies with
    | body :: rest => { s with replies := rest, tx := some (linkFrame body) }
    | [] => s
  else s

/-- SEND_REPLY (R195). -/
def execSendReply (s : State) : Host.Outcome State Fault Refusal := .next s.sendReply

/-- NOTICE_SEND (R178). -/
def execNoticeSend (s : State) : Host.Outcome State Fault Refusal := .next s.noticeSend

/-- FRAME_SENT (R195): the frame in progress is finished; the transmitter's choice is then `State.nextFrame` (log 6). -/
def execFrameSent (s : State) : Host.Outcome State Fault Refusal := .next { s with tx := none }

/-! ### The Timebase, TIME_GET, PING (R198, R201, R202) -/

/-- TIMEBASE_TICK (R198): one microsecond, wrapping from 2^48−1 to 0. -/
def execTimebaseTick (s : State) : Host.Outcome State Fault Refusal := .next { s with timebase := s.timebase + 1 }

/-- R202. -/
def runTimeGet (_p : List Byte) (s : State) : Reply × State := (.ok (be 6 s.timebase.toNat), s)

/-- TIME_GET (R202). -/
def execTimeGet (s : State) : Host.Outcome State Fault Refusal := .next (s.executeKind kindTimeGet runTimeGet)

/-- R201, section 10.8: part code, revision and capacities. -/
def pingPayload : List Byte :=
  be 2 Config.partCode ++ byte Config.revision ++ byte 2 ++ byte 4 ++ be 2 Config.mapEntries ++ byte Config.stagedEdits
    ++ byte 128 ++ be 2 Config.sampleSlots ++ byte 4 ++ byte Config.noticeSlots

/-- R201. -/
def runPing (_p : List Byte) (s : State) : Reply × State := (.ok pingPayload, s)

/-- PING (R201). -/
def execPing (s : State) : Host.Outcome State Fault Refusal := .next (s.executeKind kindPing runPing)

end Sys2Proof.Machine
end

