-- ==== Sys2Proof/Machine/Queues.lean ====
section
/-! DEFINITION. Sample queues (07): pushing, draining and emptying a channel's queue. -/

namespace Sys2Proof.Machine

/-- R137: a queue as bind leaves it. -/
def SampleQueue.empty : SampleQueue := ⟨[], 0, true⟩

/-- R95: a raise of a kind in the channel's notice set; nothing is raised otherwise. -/
def Channel.note (ch : Channel) (r : Raise) : List Raise := if ch.settings.notes r.kind then [r] else []

/-- R139: a push below capacity appends the record and tests the watermark. -/
def Channel.pushRoom (ch : Channel) (c : ChannelId) (r : Sample) : Channel × List Raise :=
  if 0 < ch.config.watermark ∧ ch.queue.flagArmed = true ∧ ch.queue.records.length + 1 = ch.config.watermark then
    ({ ch with queue := { ch.queue with records := ch.queue.records ++ [r], flagArmed := false } },
      ch.note (.queueLevel c (ch.queue.records.length + 1) ch.config.watermark r.sequence))
  else ({ ch with queue := { ch.queue with records := ch.queue.records ++ [r] } }, [])

/-- R140: what an overflowing push leaves in the queue. -/
def overflowRecords (policy : OverflowPolicy) (records : List Sample) (r : Sample) : List Sample :=
  match policy with
  | .keepOldest => records
  | .keepNewest => records.tail ++ [r]

/-- R140, R144: the sequence of the sample an overflowing push loses. -/
def overflowLost (policy : OverflowPolicy) (records : List Sample) (r : Sample) : BitVec 32 :=
  match policy with
  | .keepOldest => r.sequence
  | .keepNewest => (records.headD r).sequence

/-- R140, R141: a push that finds the queue full. -/
def Channel.pushFull (ch : Channel) (c : ChannelId) (r : Sample) : Channel × List Raise :=
  ({ ch with
      queue := { ch.queue with
        records := overflowRecords ch.config.policy ch.queue.records r
        dropped := min (ch.queue.dropped + 1) Config.maxDropped }
      latches := ch.latches ||| latchOverflowSeen },
    ch.note (.queueOverflow c ch.config.policy (overflowLost ch.config.policy ch.queue.records r)
      (min (ch.queue.dropped + 1) Config.maxDropped) ch.queue.records.length))

/-- R108 step 5, R139: no push with q = 0; otherwise by the fill. -/
def Channel.push (ch : Channel) (c : ChannelId) (r : Sample) : Channel × List Raise :=
  if ch.config.capacity = 0 then (ch, [])
  else if ch.queue.records.length < ch.config.capacity then ch.pushRoom c r
  else ch.pushFull c r

/-- R142, R146: the queue after a drain of up to `max` records. -/
def SampleQueue.drain (q : SampleQueue) (watermark max : Nat) : SampleQueue where
  records := q.records.drop max
  dropped := 0
  flagArmed := q.flagArmed || decide ((q.records.drop max).length < watermark / 2)

/-- R146: fill after, dropped count before, the records removed. -/
def SampleQueue.drainReport (q : SampleQueue) (max : Nat) : List Byte :=
  be 2 (q.records.drop max).length ++ be 2 q.dropped ++ (q.records.take max).flatMap Sample.bytes

/-- R145, R146. -/
def runQueueDrain (p : List Byte) (s : State) : Reply × State :=
  match (readDrain p).failing with
  | some index => (.badValue index, s)
  | none =>
    match s.channel (Fin.ofNat 128 (readDrain p).channel) with
    | none => (.plain .noSuch, s)
    | some ch =>
      if ch.config.capacity = 0 then (.plain .wrongState, s)
      else
        (.ok (ch.queue.drainReport (readDrain p).max),
          s.setChannel (Fin.ofNat 128 (readDrain p).channel)
            (some { ch with queue := ch.queue.drain ch.config.watermark (readDrain p).max }))

/-- QUEUE_DRAIN (R145, R146). -/
def execQueueDrain (s : State) : Host.Outcome State Fault Refusal := .next (s.executeKind kindQueueDrain runQueueDrain)

end Sys2Proof.Machine
end

