-- ==== Sys2Proof/Machine/Channels.lean ====
section
/-! DEFINITION. Channels (05) and settling, limits and latches (06): the record's life, the channel requests, the CHANNELS reset. -/

namespace Sys2Proof.Machine

/-! ### Binding (R99, R95) -/

/-- R95: the settings CHANNEL_BIND gives. -/
def ChannelSettings.default : ChannelSettings := ⟨1, 0, false, 0, 0, 0, 0, 0⟩

/-- R99: a record as CHANNEL_BIND leaves it. -/
def Channel.fresh (config : ChannelConfig) : Channel where
  config := config
  width := 0
  settings := .default
  data := .noData
  nextSeq := 0
  candidate := none
  agree := 0
  settled := none
  limit := .normal
  latches := 0
  staleTimer := none
  queue := .empty

/-- R96: the last sample, present in CURRENT and STALE. -/
def ValueState.last : ValueState → Option Sample
  | .noData => none
  | .current r => some r
  | .stale _ r => some r

/-- R96: the stale reason, present only in STALE. -/
def ValueState.reason : ValueState → Option StaleReason
  | .noData => none
  | .current _ => none
  | .stale why _ => some why

/-- R152: the value state as it is reported. -/
def ValueState.reported : ValueState → ReportedState
  | .noData => .noData
  | .current _ => .current
  | .stale _ _ => .stale

/-! ### Reading values as numbers (R97) -/

/-- R97: a value field of a width as a whole number, in the channel's signedness. -/
def readValue (signed : Bool) (width : Nat) (v : BitVec 32) : Int :=
  if signed then (v.setWidth width).toInt else v.toNat

/-- R97: low and high are 32-bit numbers in the channel's signedness. -/
def readLimit (signed : Bool) (v : BitVec 32) : Int := if signed then v.toInt else v.toNat

/-! ### Limits (R126 to R130) -/

/-- R126: the table, its conditions tested in order. -/
def limitMove (low high h v : Int) : LimitState → LimitState
  | .normal => if high < v then .high else if v < low then .low else .normal
  | .high => if v < low then .low else if v ≤ high - h then .normal else .high
  | .low => if high < v then .high else if low + h ≤ v then .normal else .low

/-- R126, R127: the limit state an evaluation against a settled value gives. -/
def Channel.limitFor (ch : Channel) (v : Settled) : LimitState :=
  if ch.settings.limitsEnabled then
    limitMove (readLimit ch.config.signed ch.settings.low) (readLimit ch.config.signed ch.settings.high)
      ch.settings.hysteresis.toNat (readValue ch.config.signed v.width v.value) ch.limit
  else .normal

/-- R125 to R130: an evaluation. A change sets LOW_SEEN or HIGH_SEEN and raises LIMIT; without a settled value
nothing changes. -/
def Channel.evaluate (ch : Channel) (c : ChannelId) (cause : LimitCause) : Channel × List Raise :=
  match ch.settled with
  | none => (ch, [])
  | some v =>
    if ch.limitFor v = ch.limit then (ch, [])
    else
      ({ ch with limit := ch.limitFor v, latches := ch.latches ||| (ch.limitFor v).latch },
        ch.note (.limit c ch.limit (ch.limitFor v) v cause))

/-! ### Settling (R117 to R124) -/

/-- R124: agreement restarts; the settled value and limit state stay. -/
def Channel.restartAgreement (ch : Channel) : Channel := { ch with candidate := none, agree := 0 }

/-- R120: a good sample agrees when a candidate is present and within the deadband. -/
def Channel.agrees (ch : Channel) (v : BitVec 32) : Bool :=
  match ch.candidate with
  | none => false
  | some k =>
    decide ((readValue ch.config.signed ch.width v - readValue ch.config.signed ch.width k).natAbs ≤ ch.settings.deadband)

/-- R121: the agree count after a good sample. -/
def Channel.agreeAfter (ch : Channel) (v : BitVec 32) : Nat :=
  if ch.agrees v then min (ch.agree + 1) ch.settings.settleCount else 1

/-- R122: setting the settled value changes it when none was present or the numbers differ. -/
def Channel.settledChanges (ch : Channel) (v : BitVec 32) : Bool :=
  match ch.settled with
  | none => true
  | some o => decide (readValue ch.config.signed o.width o.value ≠ readValue ch.config.signed ch.width v)

/-- R122, R123, R128: the settled value is set; a change raises SETTLED and then evaluates the limits. -/
def Channel.setSettled (ch : Channel) (c : ChannelId) (r : Sample) : Channel × List Raise :=
  if ch.settledChanges r.value then
    ((({ ch with settled := some ⟨r.value, ch.width⟩ } : Channel).evaluate c .settle).1,
      ch.note (.settled c ⟨r.value, ch.width⟩ (ch.settled.map Settled.value) r.sequence r.stamp)
        ++ (({ ch with settled := some ⟨r.value, ch.width⟩ } : Channel).evaluate c .settle).2)
  else ({ ch with settled := some ⟨r.value, ch.width⟩ }, [])

/-- R119 to R122: settling of one released sample. -/
def Channel.settle (ch : Channel) (c : ChannelId) (r : Sample) : Channel × List Raise :=
  if r.flags.good then
    if ch.agreeAfter r.value = ch.settings.settleCount then
      ({ ch with candidate := some r.value, agree := ch.agreeAfter r.value } : Channel).setSettled c r
    else ({ ch with candidate := some r.value, agree := ch.agreeAfter r.value }, [])
  else ({ ch with agree := 0 }, [])

/-! ### Release (R108) and staleness (R110 to R113) -/

/-- R108 steps 1 to 3: the sample with its sequence becomes the last sample, the value state CURRENT, and the latches
its flags call for are set. -/
def Channel.receive (ch : Channel) (r : Sample) : Channel :=
  { ch with nextSeq := ch.nextSeq + 1, data := .current r, latches := ch.latches ||| r.flags.latches }

/-- R108 step 1: the sample record with the channel's next sequence. -/
def Channel.numbered (ch : Channel) (r : Sample) : Sample := { r with sequence := ch.nextSeq }

/-- R108: the seven steps of a released sample, with the raises in their order. -/
def Channel.release (ch : Channel) (now : Time) (c : ChannelId) (raw : Sample) : Channel × List Raise :=
  let r := ch.numbered raw
  let settled := (ch.receive r).settle c r
  let pushed := settled.1.push c r
  ({ pushed.1 with staleTimer := startTimer now ch.settings.staleWindow },
    settled.2 ++ pushed.2 ++ ch.note (.sample c r))

/-- R113: entry to STALE from CURRENT; a channel in another value state is left as it is. -/
def Channel.enterStale (ch : Channel) (why : StaleReason) : Channel :=
  match ch.data with
  | .current r => { ch with data := .stale why r, staleTimer := none, candidate := none, agree := 0 }
  | .noData => ch
  | .stale _ _ => ch

/-- R113 step 4: the STALE notice of an entry to STALE. -/
def Channel.staleRaise (ch : Channel) (c : ChannelId) (why : StaleReason) : List Raise :=
  match ch.data with
  | .current r => ch.note (.stale c why r.sequence r.stamp)
  | .noData => []
  | .stale _ _ => []

/-- R112: the STALE raises of a stop, in increasing channel number. -/
def State.staleRaises (s : State) (i : StreamId) (why : StaleReason) : List Raise :=
  allChannels.flatMap fun c =>
    match s.channel c with
    | some ch => if ch.config.stream = i then ch.staleRaise c why else []
    | none => []

/-- R112: the CURRENT channels of the stream go STALE. -/
def State.staleStream (s : State) (i : StreamId) (why : StaleReason) : State :=
  (s.mapChannels fun _ ch => if ch.config.stream = i then ch.enterStale why else ch).raiseAll (s.staleRaises i why)

/-- R108: one released sample at the Channel Table; a channel that is not bound to the stream takes none. -/
def State.release (s : State) (i : StreamId) (c : ChannelId) (raw : Sample) : State :=
  match s.channel c with
  | none => s
  | some ch =>
    if ch.config.stream = i then
      (s.setChannel c (some (ch.release s.timebase c raw).1)).raiseAll (ch.release s.timebase c raw).2
    else s

/-- R111: a CURRENT channel's stale timer expires when it is due. -/
def State.staleExpiry (s : State) (c : ChannelId) : State :=
  match s.channel c with
  | none => s
  | some ch =>
    if timerDue s.timebase ch.staleTimer ch.settings.staleWindow then
      (s.setChannel c (some (ch.enterStale .timeout))).raiseAll (ch.staleRaise c .timeout)
    else s

/-- STALE_TIMER_EXPIRY (R111). A channel outside 0..127 has no timer: a fault (log 17). -/
def execStaleTimerExpiry (channel : Nat) (s : State) : Host.Outcome State Fault Refusal :=
  if channel < 128 then .next (s.staleExpiry (Fin.ofNat 128 channel)) else .fault (.noSuchChannel channel)

/-! ### Map claims (R69) -/

/-- R69, R100: the number of committed entries that name the channel. -/
def State.committedClaims (s : State) (c : ChannelId) : Nat := s.map.countP fun e => e.channel == c

/-- An edit is an ADD that names the channel. -/
def Edit.addsChannel (c : ChannelId) : Edit → Bool
  | .add e => e.channel == c
  | .remove _ _ _ => false
  | .removeAll _ _ => false

/-- R69, R100: the number of ADD edits on the two staged lists that name the channel, pending or not. -/
def State.stagedClaims (s : State) (c : ChannelId) : Nat :=
  (s.stage.get .s0).edits.countP (Edit.addsChannel c) + (s.stage.get .s1).edits.countP (Edit.addsChannel c)

/-! ### Requests -/

/-- R98, R99, R136. -/
def runChannelBind (p : List Byte) (s : State) : Reply × State :=
  match (readBind p).failing with
  | some index => (.badValue index, s)
  | none =>
    if (s.channel (Fin.ofNat 128 (readBind p).channel)).isSome then (.plain .inUse, s)
    else if s.poolFree < (readBind p).capacity then (⟨.noRoom, be 2 s.poolFree⟩, s)
    else
      (.ok (be 2 (s.poolFree - (readBind p).capacity)),
        { s.setChannel (Fin.ofNat 128 (readBind p).channel) (some (.fresh (readBind p).config)) with
          poolFree := s.poolFree - (readBind p).capacity })

/-- R100, R101, R149. -/
def runChannelUnbind (p : List Byte) (s : State) : Reply × State :=
  match fieldZeroFailing p 127 with
  | some index => (.badValue index, s)
  | none =>
    match s.channel (Fin.ofNat 128 (fieldAt p 0 1)) with
    | none => (.ok (yesNo false ++ be 2 0 ++ be 2 s.poolFree), s)
    | some ch =>
      if 0 < s.committedClaims (Fin.ofNat 128 (fieldAt p 0 1)) + s.stagedClaims (Fin.ofNat 128 (fieldAt p 0 1)) then
        (⟨.inUse, be 2 (s.committedClaims (Fin.ofNat 128 (fieldAt p 0 1)))
            ++ byte (s.stagedClaims (Fin.ofNat 128 (fieldAt p 0 1)))⟩, s)
      else
        (.ok (yesNo true ++ be 2 ch.queue.records.length ++ be 2 (s.poolFree + ch.config.capacity)),
          { s.setChannel (Fin.ofNat 128 (fieldAt p 0 1)) none with poolFree := s.poolFree + ch.config.capacity })

/-- R102: low + h ≤ high − h, in full, in the channel's signedness. -/
def limitsFit (signed : Bool) (t : ChannelSettings) : Bool :=
  decide (readLimit signed t.low + t.hysteresis.toNat ≤ readLimit signed t.high - t.hysteresis.toNat)

/-- R102 check 1, in index order; the limits are tested at index 6 when they are enabled and the channel is BOUND. -/
def SetFields.failing (f : SetFields) (bound : Option Channel) : Option Nat :=
  firstFailing
    [(0, decide (127 < f.channel)), (1, decide (f.settleCount < 1 ∨ 15 < f.settleCount)), (3, decide (1 < f.enabled)),
     (6, f.enabled == 1 &&
        (match bound with
         | some ch => !limitsFit ch.config.signed f.settings
         | none => false)),
     (8, decide (63 < f.noticeSet))]

/-- R103 step 2: one of the four limit settings differs from what was stored. -/
def ChannelSettings.limitsDiffer (a b : ChannelSettings) : Bool :=
  decide (a.limitsEnabled ≠ b.limitsEnabled ∨ a.low ≠ b.low ∨ a.high ≠ b.high ∨ a.hysteresis ≠ b.hysteresis)

/-- R103 step 3: the stale timer after new settings. -/
def Channel.staleTimerAfterSet (ch : Channel) (now : Time) (t : ChannelSettings) : Option Time :=
  if t.staleWindow = ch.settings.staleWindow then ch.staleTimer
  else
    match ch.data with
    | .current _ => startTimer now t.staleWindow
    | .noData => ch.staleTimer
    | .stale _ _ => ch.staleTimer

/-- R103: the settings are stored, agreement restarts, the limits are evaluated if they changed, the stale timer
restarts if its window changed. -/
def Channel.applySettings (ch : Channel) (now : Time) (c : ChannelId) (t : ChannelSettings) : Channel × List Raise :=
  let stored : Channel := { ch.restartAgreement with settings := t, staleTimer := ch.staleTimerAfterSet now t }
  if ch.settings.limitsDiffer t then stored.evaluate c .set else (stored, [])

/-- R102, R103. -/
def runChannelSet (p : List Byte) (s : State) : Reply × State :=
  match (readSet p).failing (s.channel (Fin.ofNat 128 (readSet p).channel)) with
  | some index => (.badValue index, s)
  | none =>
    match s.channel (Fin.ofNat 128 (readSet p).channel) with
    | none => (.plain .noSuch, s)
    | some ch =>
      let set := ch.applySettings s.timebase (Fin.ofNat 128 (readSet p).channel) (readSet p).settings
      (.ok (byte set.1.limit.code),
        (s.setChannel (Fin.ofNat 128 (readSet p).channel) (some set.1)).raiseAll set.2)

/-- R105: the CHANNEL_READ reply of an UNBOUND channel: the value state reads UNBOUND, the stale reason none
(DEDUCED, log 14), every other field of the record 0, and the map claims are counted. DESIGN CHOICE (log 28): the fields R105
lets be absent (last sample, candidate, settled value and width, the milliseconds remaining) have their presence flags 0
and their bytes 0. -/
def unboundReport (committed staged : Nat) : List Byte :=
  List.replicate 29 0 ++ byte ReportedState.unbound.code ++ byteOrNone none ++ List.replicate 47 0 ++ be 2 committed
    ++ byte staged

/-- R94, section 10.8: the binding and configuration, 10 bytes with the width. -/
def Channel.configBytes (ch : Channel) : List Byte :=
  byte 1 ++ byte ch.config.stream.index ++ byte ch.config.fragments ++ yesNo ch.config.signed ++ be 2 ch.config.capacity
    ++ byte ch.config.policy.code ++ be 2 ch.config.watermark ++ byte ch.width

/-- R95, section 10.8: the CHANNEL_SET fields from settle_count to the notice set, 19 bytes. -/
def ChannelSettings.bytes (t : ChannelSettings) : List Byte :=
  byte t.settleCount ++ be 2 t.deadband ++ yesNo t.limitsEnabled ++ be 4 t.low.toNat ++ be 4 t.high.toNat
    ++ be 4 t.hysteresis.toNat ++ be 2 t.staleWindow ++ byte t.noticeSet.toNat

/-- A presence flag and a value field of `size` bytes; the bytes of an absent value are free (log 10). -/
def presentBytes (draw size : Nat) (v : Option (List Byte)) : List Byte :=
  yesNo v.isSome ++ v.getD (absent draw size)

/-- R105, section 10.8: the dynamic state. -/
def Channel.stateBytes (ch : Channel) (now : Time) (draw : Nat) : List Byte :=
  byte ch.data.reported.code ++ byteOrNone (ch.data.reason.map StaleReason.code)
    ++ presentBytes draw 20 (ch.data.last.map Sample.bytes)
    ++ be 4 ch.nextSeq.toNat
    ++ presentBytes (draw + 1) 4 (ch.candidate.map fun v => be 4 v.toNat)
    ++ byte ch.agree
    ++ presentBytes (draw + 2) 5 (ch.settled.map fun v => be 4 v.value.toNat ++ byte v.width)
    ++ byte ch.limit.code ++ byte ch.latches.toNat
    ++ presentBytes (draw + 3) 2 (ch.staleTimer.map fun start => be 2 (remainingMs now start ch.settings.staleWindow))

/-- R105, section 10.8: the CHANNEL_READ reply of a BOUND channel. -/
def Channel.report (ch : Channel) (now : Time) (draw committed staged : Nat) : List Byte :=
  ch.configBytes ++ ch.settings.bytes ++ ch.stateBytes now draw
    ++ be 2 ch.queue.records.length ++ be 2 ch.queue.dropped ++ yesNo ch.queue.flagArmed
    ++ be 2 committed ++ byte staged

/-- R105. The four fields that may be absent take four free values (log 10, log 11). -/
def runChannelRead (p : List Byte) (s : State) : Reply × State :=
  match fieldZeroFailing p 127 with
  | some index => (.badValue index, s)
  | none =>
    match s.channel (Fin.ofNat 128 (fieldAt p 0 1)) with
    | none =>
      (.ok (unboundReport (s.committedClaims (Fin.ofNat 128 (fieldAt p 0 1))) (s.stagedClaims (Fin.ofNat 128 (fieldAt p 0 1)))), s)
    | some ch =>
      (.ok (ch.report s.timebase s.draws (s.committedClaims (Fin.ofNat 128 (fieldAt p 0 1)))
          (s.stagedClaims (Fin.ofNat 128 (fieldAt p 0 1)))),
        { s with draws := s.draws + 4 })

/-- R107: CHANNEL_CLEAR VALUE. -/
def Channel.clearValue (ch : Channel) : Channel :=
  { ch with data := .noData, candidate := none, agree := 0, settled := none, limit := .normal, staleTimer := none }

/-- R106: CHANNEL_CLEAR LATCHES clears the latches the set names. -/
def Channel.clearLatches (ch : Channel) (set : BitVec 7) : Channel := { ch with latches := ch.latches &&& ~~~set }

/-- R148: CHANNEL_CLEAR QUEUE. -/
def Channel.clearQueue (ch : Channel) : Channel := { ch with queue := .empty }

/-- R106: the work of the named parts, as one step. -/
def Channel.clear (ch : Channel) (f : ClearFields) : Channel :=
  let a := if f.namesLatches then ch.clearLatches (BitVec.ofNat 7 f.latches) else ch
  let b := if f.namesValue then a.clearValue else a
  if f.namesQueue then b.clearQueue else b

/-- R106, R107, R148. -/
def runChannelClear (p : List Byte) (s : State) : Reply × State :=
  match (readClear p).failing with
  | some index => (.badValue index, s)
  | none =>
    match s.channel (Fin.ofNat 128 (readClear p).channel) with
    | none => (.plain .noSuch, s)
    | some ch =>
      (.ok (be 2 (if (readClear p).namesQueue then ch.queue.records.length else 0)
          ++ byte (ch.clear (readClear p)).latches.toNat),
        s.setChannel (Fin.ofNat 128 (readClear p).channel) (some (ch.clear (readClear p))))

/-- R115: a CHANNELS reset of one bound record: its binding, configuration, width, settings and reservation stay. -/
def Channel.resetState (ch : Channel) : Channel :=
  { Channel.fresh ch.config with width := ch.width, settings := ch.settings }

/-- CHANNEL_BIND (R98, R99). -/
def execChannelBind (s : State) : Host.Outcome State Fault Refusal := .next (s.executeKind kindChannelBind runChannelBind)

/-- CHANNEL_UNBIND (R100, R101). -/
def execChannelUnbind (s : State) : Host.Outcome State Fault Refusal := .next (s.executeKind kindChannelUnbind runChannelUnbind)

/-- CHANNEL_SET (R102, R103). -/
def execChannelSet (s : State) : Host.Outcome State Fault Refusal := .next (s.executeKind kindChannelSet runChannelSet)

/-- CHANNEL_READ (R105). -/
def execChannelRead (s : State) : Host.Outcome State Fault Refusal := .next (s.executeKind kindChannelRead runChannelRead)

/-- R106: the CHANNEL_CLEAR rows. A row takes a CHANNEL_CLEAR whose parts name its part, and does all the parts the request
names, as one step; one whose parts name nothing valid may be taken by any of the three (log 13). -/
def takesClear (part : Nat) (q : Request) : Bool :=
  q.kind == kindChannelClear
    && (q.payload.length != 3 || decide ((readClear q.payload).parts = 0 ∨ 7 < (readClear q.payload).parts)
      || (readClear q.payload).parts.testBit part)

/-- CHANNEL_CLEAR_LATCHES (R106). -/
def execChannelClearLatches (s : State) : Host.Outcome State Fault Refusal :=
  .next (s.takeRequest (takesClear 0) (runChecked runChannelClear))

/-- CHANNEL_CLEAR_VALUE (R106, R107). -/
def execChannelClearValue (s : State) : Host.Outcome State Fault Refusal :=
  .next (s.takeRequest (takesClear 1) (runChecked runChannelClear))

/-- CHANNEL_CLEAR_QUEUE (R106, R148). -/
def execChannelClearQueue (s : State) : Host.Outcome State Fault Refusal :=
  .next (s.takeRequest (takesClear 2) (runChecked runChannelClear))

/-! ### RESET of scope CHANNELS (R115, R199) -/

/-- R199: the refusal of a RESET that is too long, too short or of no known scope. -/
def resetRefusal (q : Request) : Option Reply :=
  if lengthAllowed q.kind q.payload.length then
    if 2 < fieldAt q.payload 0 1 then some (.badValue 0) else none
  else some (badLength q)

/-- The RESET rows: a row takes a RESET of its scope; one that is refused may be taken by any of the three (log 13). -/
def takesReset (scope : Nat) (q : Request) : Bool :=
  q.kind == kindReset && ((resetRefusal q).isSome || decide (fieldAt q.payload 0 1 = scope))

/-- R115: every bound channel's record is reset; nothing is raised. -/
def State.resetChannels (s : State) : State := s.mapChannels fun _ ch => ch.resetState

/-- R115, R199. -/
def actResetChannels (q : Request) (s : State) : State :=
  match resetRefusal q with
  | some r => s.answer q r
  | none => s.resetChannels.answer q (.ok (byte 2))

/-- RESET_CHANNELS (R115). -/
def execResetChannels (s : State) : Host.Outcome State Fault Refusal :=
  .next (s.takeRequest (takesReset 2) actResetChannels)

end Sys2Proof.Machine
end

