-- ==== Sys2Proof/Machine/Rosters.lean ====
section
/-! DEFINITION. Rosters (08): entries, snapshots, the roster requests and periodic emission. -/

namespace Sys2Proof.Machine

/-! ### Entries and snapshots (R152, R153) -/

/-- R152: the entry of an UNBOUND channel. -/
def RosterEntry.unbound (c : ChannelId) : RosterEntry := ⟨c, .unbound, .normal, false, 0, .clear, 0, 0⟩

/-- R152: the entry of a BOUND channel; with no last sample or no settled value its fields read 0. -/
def RosterEntry.ofChannel (c : ChannelId) (ch : Channel) : RosterEntry where
  channel := c
  state := ch.data.reported
  limit := ch.limit
  settledPresent := ch.settled.isSome
  lastValue := (ch.data.last.map Sample.value).getD 0
  lastFlags := (ch.data.last.map Sample.flags).getD .clear
  lastSequence := (ch.data.last.map fun r => r.sequence.setWidth 16).getD 0
  settledValue := (ch.settled.map Settled.value).getD 0

/-- R152: the entry of a listed channel as its record stands. -/
def State.rosterEntry (s : State) (c : ChannelId) : RosterEntry :=
  match s.channel c with
  | none => .unbound c
  | some ch => .ofChannel c ch

/-- R153: one entry per listed channel, in list order. -/
def State.snapshot (s : State) (list : List ChannelId) : List RosterEntry := list.map s.rosterEntry

/-! ### Requests (R154 to R158) -/

/-- R154, R155. -/
def runRosterSet (p : List Byte) (s : State) : Reply × State :=
  match rosterSetFailing p with
  | some index => (.badValue index, s)
  | none =>
    (.ok (byte p.tail.length),
      s.setRoster (Fin.ofNat 4 (fieldAt p 0 1))
        { s.roster (Fin.ofNat 4 (fieldAt p 0 1)) with list := p.tail.map fun b => Fin.ofNat 128 b.toNat })

/-- R156: the roster's fields and the snapshot. -/
def State.rosterReport (s : State) (r : RosterId) : List Byte :=
  byte r.val ++ byte (s.roster r).mode.code ++ byte (s.roster r).stream.index ++ byte (s.roster r).period
    ++ byte (s.roster r).countdown ++ byte (s.roster r).list.length
    ++ (s.snapshot (s.roster r).list).flatMap RosterEntry.bytes

/-- R156. -/
def runRosterRead (p : List Byte) (s : State) : Reply × State :=
  match fieldZeroFailing p 3 with
  | some index => (.badValue index, s)
  | none => (.ok (s.rosterReport (Fin.ofNat 4 (fieldAt p 0 1))), s)

/-- R157: PERIODIC on the stream, countdown K. -/
def Roster.start (v : Roster) (i : StreamId) (period : Nat) : Roster :=
  { v with mode := .periodic, stream := i, period := period, countdown := period }

/-- R157. -/
def runRosterStart (p : List Byte) (s : State) : Reply × State :=
  match (readStart p).failing with
  | some index => (.badValue index, s)
  | none =>
    (.ok [],
      s.setRoster (Fin.ofNat 4 (readStart p).roster)
        ((s.roster (Fin.ofNat 4 (readStart p).roster)).start (.ofField (readStart p).stream) (readStart p).period))

/-- R158: IDLE with countdown 0; stream, period and list are kept. -/
def Roster.stop (v : Roster) : Roster := { v with mode := .idle, countdown := 0 }

/-- R158. -/
def runRosterStop (p : List Byte) (s : State) : Reply × State :=
  match fieldZeroFailing p 3 with
  | some index => (.badValue index, s)
  | none =>
    (.ok (byte (s.roster (Fin.ofNat 4 (fieldAt p 0 1))).mode.code),
      s.setRoster (Fin.ofNat 4 (fieldAt p 0 1)) (s.roster (Fin.ofNat 4 (fieldAt p 0 1))).stop)

/-! ### Periodic emission (R159 to R161) -/

/-- R159: the roster counts the boundaries of this stream. -/
def Roster.counts (v : Roster) (i : StreamId) : Bool := decide (v.mode = .periodic ∧ v.stream = i)

/-- R159: the boundary brings the countdown to 0. -/
def Roster.fires (v : Roster) (i : StreamId) : Bool := v.counts i && decide (v.countdown - 1 = 0)

/-- R159: the countdown after a boundary of the stream, reloaded with K when it reached 0. -/
def Roster.boundary (v : Roster) (i : StreamId) : Roster :=
  if v.fires i then { v with countdown := v.period }
  else if v.counts i then { v with countdown := v.countdown - 1 }
  else v

/-- R160: the ROSTER notice of a roster, with the count the boundary gave. -/
def State.rosterRaise (s : State) (r : RosterId) (count : BitVec 32) : Raise :=
  .roster r (s.roster r).stream count (s.snapshot (s.roster r).list)

/-- R159: the rosters take a major boundary of a stream in roster number order. -/
def State.rosterBoundary (s : State) (i : StreamId) (count : BitVec 32) : State :=
  ({ s with rosters := s.rosters.map fun v => v.boundary i } : State).raiseAll
    (allRosters.flatMap fun r => if (s.roster r).fires i then [s.rosterRaise r count] else [])

/-- ROSTER_SET (R154, R155). -/
def execRosterSet (s : State) : Host.Outcome State Fault Refusal := .next (s.executeKind kindRosterSet runRosterSet)

/-- ROSTER_READ (R156). -/
def execRosterRead (s : State) : Host.Outcome State Fault Refusal := .next (s.executeKind kindRosterRead runRosterRead)

/-- ROSTER_START (R157). -/
def execRosterStart (s : State) : Host.Outcome State Fault Refusal := .next (s.executeKind kindRosterStart runRosterStart)

/-- ROSTER_STOP (R158). -/
def execRosterStop (s : State) : Host.Outcome State Fault Refusal := .next (s.executeKind kindRosterStop runRosterStop)

end Sys2Proof.Machine
end

