-- ==== Sys2Proof/Machine/Profiles.lean ====
section
/-! DEFINITION. Frame formats (01): the figures of a profile, the in-use guard and the profile requests. -/

namespace Sys2Proof.Machine

/-! ### Figures (R2 to R5) -/

/-- R2: sync words S = L/W. -/
def Profile.syncWords (p : Profile) : Nat := p.syncLength / p.wordLength

/-- R2: data bits per word D. -/
def Profile.dataBits (p : Profile) : Nat :=
  match p.parity with
  | .noParity => p.wordLength
  | .odd => p.wordLength - 1
  | .even => p.wordLength - 1

/-- R2: minor frame length N×W bits. -/
def Profile.frameBits (p : Profile) : Nat := p.frameWords * p.wordLength

/-- R4: an ID lies in id_base..id_base+M−1. -/
def Profile.idInRange (p : Profile) (i : Nat) : Bool := decide (p.idBase ≤ i ∧ i ≤ p.idBase + p.majorLength - 1)

/-- R5: the successor of an ID. -/
def Profile.succId (p : Profile) (i : Nat) : Nat :=
  match p.idDirection with
  | .up => if i = p.idBase + p.majorLength - 1 then p.idBase else i + 1
  | .down => if i = p.idBase then p.idBase + p.majorLength - 1 else i - 1

/-- R5: the ID of the last minor frame of a major frame. -/
def Profile.lastMinorId (p : Profile) : Nat :=
  match p.idDirection with
  | .up => p.idBase + p.majorLength - 1
  | .down => p.idBase

/-! ### The in-use guard (R11) -/

/-- R11, R14: the slot is in a stream's armed set and its synchronizer is not OFF. -/
def State.armedBy (s : State) (k : Slot) (i : StreamId) : Bool :=
  (s.syn.get i).armed.getLsbD k.val && decide ((s.syn.get i).mode ≠ .off)

/-- An edit is an ADD that names the slot. -/
def Edit.addsProfile (k : Slot) : Edit → Bool
  | .add e => e.profile == k
  | .remove _ _ _ => false
  | .removeAll _ _ => false

/-- R11, R14: the slot is named by a committed entry or by an ADD of a pending commit. -/
def State.mappedSlot (s : State) (k : Slot) : Bool :=
  s.map.any (fun e => e.profile == k)
    || ((s.stage.get .s0).pending && (s.stage.get .s0).edits.any (Edit.addsProfile k))
    || ((s.stage.get .s1).pending && (s.stage.get .s1).edits.any (Edit.addsProfile k))

/-- R11: the slot is in use. -/
def State.slotInUse (s : State) (k : Slot) : Bool := s.armedBy k .s0 || s.armedBy k .s1 || s.mappedSlot k

/-! ### Requests (R12 to R14) -/

/-- R12: the field checks, then the in-use test, then the slot takes the fields. -/
def runProfileLoad (p : List Byte) (s : State) : Reply × State :=
  match (readLoad p).failing with
  | some index => (.badValue index, s)
  | none =>
    if s.slotInUse (Fin.ofNat 4 (readLoad p).slot) then (.plain .inUse, s)
    else (.ok [], s.setProfile (Fin.ofNat 4 (readLoad p).slot) (some (readLoad p).profile))

/-- R13. -/
def runProfileDrop (p : List Byte) (s : State) : Reply × State :=
  match fieldZeroFailing p 3 with
  | some index => (.badValue index, s)
  | none =>
    if s.slotInUse (Fin.ofNat 4 (fieldAt p 0 1)) then (.plain .inUse, s)
    else (.ok [], s.setProfile (Fin.ofNat 4 (fieldAt p 0 1)) none)

/-- R14: the slot state, the seventeen fields (0 for an EMPTY slot) and the three in-use indications. -/
def State.profileReport (s : State) (k : Slot) : List Byte :=
  (match s.profile k with
   | some f => byte 1 ++ f.bytes
   | none => byte 0 ++ List.replicate 27 0)
    ++ byte ((s.armedBy k .s0).toNat + 2 * (s.armedBy k .s1).toNat + 4 * (s.mappedSlot k).toNat)

/-- R14. -/
def runProfileRead (p : List Byte) (s : State) : Reply × State :=
  match fieldZeroFailing p 3 with
  | some index => (.badValue index, s)
  | none => (.ok (s.profileReport (Fin.ofNat 4 (fieldAt p 0 1))), s)

/-- PROFILE_LOAD (R12). -/
def execProfileLoad (s : State) : Host.Outcome State Fault Refusal := .next (s.executeKind kindProfileLoad runProfileLoad)

/-- PROFILE_DROP (R13). -/
def execProfileDrop (s : State) : Host.Outcome State Fault Refusal := .next (s.executeKind kindProfileDrop runProfileDrop)

/-- PROFILE_READ (R14). -/
def execProfileRead (s : State) : Host.Outcome State Fault Refusal := .next (s.executeKind kindProfileRead runProfileRead)

end Sys2Proof.Machine
end

