-- ==== Sys2Proof/Machine/Map.lean ====
section
/-! DEFINITION. The Extraction Map (04): staged edits, validation, the application of a commit, the map requests. -/

namespace Sys2Proof.Machine

/-! ### Entries -/

/-- R68: the entry's key is channel, profile and fragment. -/
def MapEntry.sameKey (a b : MapEntry) : Bool :=
  a.channel == b.channel && a.profile == b.profile && a.fragment == b.fragment

/-- R55: a selector covers ID i when i ≥ first and i − first is a whole multiple of step. -/
def MapEntry.covers (e : MapEntry) (i : Nat) : Bool := decide (e.first ≤ i ∧ (i - e.first) % e.step = 0)

/-- R71: the entries a REMOVE or REMOVE ALL of the stream names. -/
def Edit.names (i : StreamId) (e : MapEntry) : Edit → Bool
  | .add _ => false
  | .remove c k f => e.stream == i && e.channel == c && e.profile == k && e.fragment == f
  | .removeAll c k => e.stream == i && e.channel == c && e.profile == k

/-- R70, R85: one edit applied to a list of entries: ADDs append at the end, removals close up the gap. -/
def applyEdit (i : StreamId) (entries : List MapEntry) (edit : Edit) : List MapEntry :=
  match edit with
  | .add e => entries ++ [e]
  | .remove c k f => entries.filter fun e => !(Edit.remove c k f).names i e
  | .removeAll c k => entries.filter fun e => !(Edit.removeAll c k).names i e

/-- R85: the edits in order. -/
def applyEdits (i : StreamId) (entries : List MapEntry) (edits : List Edit) : List MapEntry :=
  edits.foldl (applyEdit i) entries

/-- The number of entries of a stream. -/
def countOf (i : StreamId) (entries : List MapEntry) : Nat := entries.countP fun e => e.stream == i

/-! ### Validation (R76 to R81) -/

/-- The reasons of INVALID_MAP (R193). -/
inductive MapReason where
  | noEntry
  | noChannel
  | noProfile
  | position
  | bits
  | selector
  | duplicate
  | capacity
  | incomplete
  | order
  | width
  | staging
  deriving DecidableEq, Repr

/-- R193. -/
def MapReason.code : MapReason → Nat
  | .noEntry => 1
  | .noChannel => 2
  | .noProfile => 3
  | .position => 4
  | .bits => 5
  | .selector => 6
  | .duplicate => 7
  | .capacity => 8
  | .incomplete => 9
  | .order => 10
  | .width => 11
  | .staging => 12

/-- What an INVALID_MAP reply carries (R193): the channel for every reason but STAGING, profile and ID for STAGING. -/
structure MapFailure where
  edit : Nat
  reason : MapReason
  channel : Option ChannelId
  profile : Option Slot
  minorId : Option Nat
  deriving DecidableEq, Repr

/-- R193. -/
def MapFailure.bytes (f : MapFailure) : List Byte :=
  byte f.edit ++ byte f.reason.code ++ byteOrNone (f.channel.map Fin.val) ++ byteOrNone (f.profile.map Fin.val)
    ++ wordOrNone f.minorId

/-- The channel is BOUND to the stream (R77 check 1). -/
def State.boundTo (s : State) (c : ChannelId) (i : StreamId) : Bool :=
  match s.channel c with
  | some ch => ch.config.stream == i
  | none => false

/-- R77 checks 3 to 5 and 6, 7: an ADD against the profile it names and the copy. DEDUCED, unsafe (log 12): the growth of R79 may be
negative, so that an ADD passes CAPACITY on places the other stream's pending commit has yet to free; the committed map then stands
above the 512 entries of R68 while that commit waits, and stays there if MAP_DISCARD cancels it. -/
def addFailsProfile (growth : Int) (copy : List MapEntry) (e : MapEntry) (p : Profile) : Option MapReason :=
  if e.position ≤ p.syncWords ∨ p.frameWords < e.position ∨ (p.check = .crc16 ∧ e.position = p.frameWords) then
    some .position
  else if p.dataBits < e.offset + e.width then some .bits
  else if p.idInRange e.first = false ∨ e.step = 0 ∨ p.majorLength < e.step then some .selector
  else if copy.any (fun x => x.sameKey e) then some .duplicate
  else if (Config.mapEntries : Int) < (copy.length : Int) + 1 + growth then some .capacity
  else none

/-- R77: the checks of an ADD, in order. -/
def State.addFails (s : State) (i : StreamId) (growth : Int) (copy : List MapEntry) (e : MapEntry) : Option MapReason :=
  if s.boundTo e.channel i then
    match s.profile e.profile with
    | none => some .noProfile
    | some p => addFailsProfile growth copy e p
  else some .noChannel

/-- The channel an edit names. -/
def Edit.channel : Edit → ChannelId
  | .add e => e.channel
  | .remove c _ _ => c
  | .removeAll c _ => c

/-- R77, R78: the checks of one edit against the copy. -/
def State.editFails (s : State) (i : StreamId) (growth : Int) (copy : List MapEntry) (edit : Edit) : Option MapReason :=
  match edit with
  | .add e => s.addFails i growth copy e
  | .remove c k f => if copy.any ((Edit.remove c k f).names i) then none else some .noEntry
  | .removeAll c k => if copy.any ((Edit.removeAll c k).names i) then none else some .noEntry

/-- R76: the edits checked and applied to the copy in order; the first that fails ends the validation. -/
def State.checkEdits (s : State) (i : StreamId) (growth : Int) :
    Nat → List MapEntry → List Edit → Option MapFailure × List MapEntry
  | _, copy, [] => (none, copy)
  | n, copy, edit :: rest =>
    match s.editFails i growth copy edit with
    | some reason => (some ⟨n, reason, some edit.channel, none, none⟩, copy)
    | none => s.checkEdits i growth (n + 1) (applyEdit i copy edit) rest

/-- The entries of a channel under a profile. -/
def entriesUnder (copy : List MapEntry) (c : ChannelId) (k : Slot) : List MapEntry :=
  copy.filter fun e => e.channel == c && e.profile == k

/-- R80, INCOMPLETE: the fragment indices are not exactly 0..F−1. -/
def incompleteUnder (fragments : Nat) (es : List MapEntry) : Bool :=
  !(es.length == fragments && (List.range fragments).all fun k => es.any fun e => e.fragment == k)

/-- R80, ORDER: not one selector, or positions that do not strictly increase with the fragment index. -/
def orderBroken (es : List MapEntry) : Bool :=
  !(es.all fun a => es.all fun b =>
    a.first == b.first && a.step == b.step && (!decide (a.fragment < b.fragment) || decide (a.position < b.position)))

/-- The sum of the fragment widths. -/
def widthSum (es : List MapEntry) : Nat := (es.map MapEntry.width).sum

/-- R80, INCOMPLETE for a channel. -/
def State.incomplete (s : State) (copy : List MapEntry) (c : ChannelId) : Bool :=
  match s.channel c with
  | none => false
  | some ch =>
    allSlots.any fun k => !(entriesUnder copy c k).isEmpty && incompleteUnder ch.config.fragments (entriesUnder copy c k)

/-- R80, ORDER for a channel. -/
def orderFails (copy : List MapEntry) (c : ChannelId) : Bool := allSlots.any fun k => orderBroken (entriesUnder copy c k)

/-- R80, WIDTH for a channel: a sum above 32, or two profiles with different sums. -/
def widthFails (copy : List MapEntry) (c : ChannelId) : Bool :=
  allSlots.any fun k =>
    decide (32 < widthSum (entriesUnder copy c k))
      || allSlots.any fun j =>
        !(entriesUnder copy c k).isEmpty && !(entriesUnder copy c j).isEmpty
          && decide (widthSum (entriesUnder copy c k) ≠ widthSum (entriesUnder copy c j))

/-- R80: the channels bound to the committing stream that have an entry in the copy, in increasing number. -/
def State.checkedChannels (s : State) (i : StreamId) (copy : List MapEntry) : List ChannelId :=
  allChannels.filter fun c => s.boundTo c i && copy.any fun e => e.channel == c

/-- R80: each check is made for every channel before the next check begins. -/
def State.wholeFails (s : State) (i : StreamId) (copy : List MapEntry) : Option (MapReason × ChannelId) :=
  match (s.checkedChannels i copy).find? (s.incomplete copy) with
  | some c => some (.incomplete, c)
  | none =>
    match (s.checkedChannels i copy).find? (orderFails copy) with
    | some c => some (.order, c)
    | none =>
      match (s.checkedChannels i copy).find? (widthFails copy) with
      | some c => some (.width, c)
      | none => none

/-- R81: the channels of the stream whose entries under the profile cover the ID. -/
def coveringCount (i : StreamId) (copy : List MapEntry) (k : Slot) (minorId : Nat) : Nat :=
  allChannels.countP fun c => copy.any fun e => e.stream == i && e.profile == k && e.channel == c && e.covers minorId

/-- R4: the IDs of a profile in increasing order. -/
def Profile.ids (p : Profile) : List Nat := (List.range p.majorLength).map (· + p.idBase)

/-- R81: the first profile and ID at which more than 64 channels would complete. -/
def State.stagingFails (s : State) (i : StreamId) (copy : List MapEntry) : Option (Slot × Nat) :=
  allSlots.findSome? fun k =>
    if copy.any (fun e => e.stream == i && e.profile == k) then
      match s.profile k with
      | none => none
      | some p =>
        (p.ids.find? fun minorId => decide (Config.stagingLimit < coveringCount i copy k minorId)).map fun m => (k, m)
    else none

/-- R79: the growth of the other stream's pending commit, 0 when it has none; where it is negative, log 12. -/
def State.otherGrowth (s : State) (i : StreamId) : Int :=
  if (s.stage.get i.other).pending then (s.stage.get i.other).growth else 0

/-- R76: the validation of a stream's staged list, none when it passes. -/
def State.validate (s : State) (i : StreamId) : Option MapFailure :=
  match s.checkEdits i (s.otherGrowth i) 0 s.map (s.stage.get i).edits with
  | (some f, _) => some f
  | (none, copy) =>
    match s.wholeFails i copy with
    | some (reason, c) => some ⟨(s.stage.get i).edits.length - 1, reason, some c, none, none⟩
    | none =>
      match s.stagingFails i copy with
      | some (k, m) => some ⟨(s.stage.get i).edits.length - 1, .staging, none, some k, some m⟩
      | none => none

/-! ### Application (R85, R86) -/

/-- R86: the width of a channel under a list of entries: the sum under any one profile, 0 with no entries. -/
def mapWidth (entries : List MapEntry) (c : ChannelId) : Nat :=
  match entries.find? fun e => e.channel == c with
  | none => 0
  | some e => widthSum (entriesUnder entries c e.profile)

/-- R86: a changed width restarts settling. -/
def Channel.setWidth (ch : Channel) (w : Nat) : Channel :=
  if ch.width = w then ch else { ch.restartAgreement with width := w }

/-- R85, R86: the stream's staged edits applied, its list emptied, its flag cleared, its channels' widths set. No
entry is dropped where the map passes R68's 512: DEDUCED (log 12). -/
def State.applyCommit (s : State) (i : StreamId) : State :=
  ({ s with map := applyEdits i s.map (s.stage.get i).edits, stage := s.stage.set i .reset } : State).mapChannels
    fun c ch =>
      if ch.config.stream = i then ch.setWidth (mapWidth (applyEdits i s.map (s.stage.get i).edits) c) else ch

/-- R87: the MAP_APPLIED of the stream's commit. -/
def State.mapApplied (s : State) (i : StreamId) : Raise :=
  .mapApplied i (s.stage.get i).edits.length (s.applyCommit i).map.length

/-- R87, R88, R89: a boundary or an extraction stop applies a pending commit and raises MAP_APPLIED. -/
def State.settlePending (s : State) (i : StreamId) : State :=
  if (s.stage.get i).pending then (s.applyCommit i).raiseAll [s.mapApplied i] else s

/-! ### Requests (R73 to R75, R91, R93) -/

/-- R73, R74: an edit joins the end of a stream's list, unless a commit is pending or the list is full. -/
def State.stageEdit (s : State) (i : StreamId) (edit : Edit) : Reply × State :=
  if (s.stage.get i).pending then (.plain .busy, s)
  else if Config.stagedEdits ≤ (s.stage.get i).edits.length then (.plain .noRoom, s)
  else
    (.ok (byte (s.stage.get i).edits.length ++ byte ((s.stage.get i).edits.length + 1)),
      s.setStage i { s.stage.get i with edits := (s.stage.get i).edits ++ [edit] })

/-- R73. -/
def runMapAdd (p : List Byte) (s : State) : Reply × State :=
  match (readAdd p).failing with
  | some index => (.badValue index, s)
  | none => s.stageEdit (.ofField (readAdd p).stream) (.add (readAdd p).entry)

/-- R74. -/
def runMapRemove (p : List Byte) (s : State) : Reply × State :=
  match (readRemove p).failing with
  | some index => (.badValue index, s)
  | none => s.stageEdit (.ofField (readRemove p).stream) (readRemove p).edit

/-- R83: the commit becomes pending, the growth of the stream's entry count fixed now. -/
def State.makePending (s : State) (i : StreamId) : State :=
  s.setStage i
    { s.stage.get i with
      pending := true
      growth := (countOf i (applyEdits i s.map (s.stage.get i).edits) : Int) - (countOf i s.map : Int) }

/-- R75: the cases of a commit whose stream is 0 or 1. -/
def State.commit (s : State) (i : StreamId) : Reply × State :=
  if (s.stage.get i).pending then (.plain .busy, s)
  else if (s.stage.get i).edits = [] then (.ok (byte 0 ++ be 2 s.map.length), s)
  else
    match s.validate i with
    | some f => (⟨.invalidMap, f.bytes⟩, s)
    | none =>
      if s.extractionActive i then
        (⟨.accepted, byte (s.stage.get i).edits.length ++ be 2 s.map.length⟩, s.makePending i)
      else
        (.ok (byte (s.stage.get i).edits.length ++ be 2 (s.applyCommit i).map.length), s.applyCommit i)

/-- R75. -/
def runMapCommit (p : List Byte) (s : State) : Reply × State :=
  match fieldZeroFailing p 1 with
  | some index => (.badValue index, s)
  | none => s.commit (.ofField (fieldAt p 0 1))

/-- R91. -/
def runMapDiscard (p : List Byte) (s : State) : Reply × State :=
  match fieldZeroFailing p 1 with
  | some index => (.badValue index, s)
  | none =>
    (.ok (byte (s.stage.get (.ofField (fieldAt p 0 1))).edits.length
        ++ yesNo (s.stage.get (.ofField (fieldAt p 0 1))).pending),
      s.setStage (.ofField (fieldAt p 0 1)) .reset)

/-- R93: the counts and flags, then up to 12 committed entries from the start index. -/
def State.mapReport (s : State) (start : Nat) : List Byte :=
  be 2 s.map.length ++ byte (s.stage.get .s0).edits.length ++ byte (s.stage.get .s1).edits.length
    ++ byte ((s.stage.get .s0).pending.toNat + 2 * (s.stage.get .s1).pending.toNat) ++ be 2 start
    ++ byte ((s.map.drop start).take Config.listPage).length
    ++ ((s.map.drop start).take Config.listPage).flatMap MapEntry.bytes

/-- R93: a start index outside 0..511 is refused. -/
def runMapList (p : List Byte) (s : State) : Reply × State :=
  if 511 < fieldAt p 0 2 then (.badValue 0, s) else (.ok (s.mapReport (fieldAt p 0 2)), s)

/-- MAP_ADD (R73). -/
def execMapAdd (s : State) : Host.Outcome State Fault Refusal := .next (s.executeKind kindMapAdd runMapAdd)

/-- MAP_REMOVE (R74). -/
def execMapRemove (s : State) : Host.Outcome State Fault Refusal := .next (s.executeKind kindMapRemove runMapRemove)

/-- MAP_COMMIT (R75). -/
def execMapCommit (s : State) : Host.Outcome State Fault Refusal := .next (s.executeKind kindMapCommit runMapCommit)

/-- MAP_DISCARD (R91). -/
def execMapDiscard (s : State) : Host.Outcome State Fault Refusal := .next (s.executeKind kindMapDiscard runMapDiscard)

/-- MAP_LIST (R93). -/
def execMapList (s : State) : Host.Outcome State Fault Refusal := .next (s.executeKind kindMapList runMapList)

end Sys2Proof.Machine
end

