-- ==== Sys2Proof/Machine/Streams.lean ====
section
/-! DEFINITION. What a request does to a stream (02, 03): the extraction stop, STREAM_ARM, STREAM_DISARM, STREAM_STATUS. -/

namespace Sys2Proof.Machine

/-! ### Extraction stop (R64) -/

/-- R64: the lists are emptied, the Channel Table is told, and after it the map. -/
def State.extractionStop (s : State) (i : StreamId) (why : StaleReason) : State :=
  ((s.setTrk i { s.trk.get i with assembly := [], staging := [] }).staleStream i why).settlePending i

/-- R65 step 1: the stream has lost lock or is disarmed. DEDUCED (log 15): the abandoned frame no longer extracts. -/
def Tracker.drop (t : Tracker) : Tracker :=
  { t with major := .noMajor, profile := none, previousId := none, frameId := none, mismatch := 0, extracting := false }

/-! ### Changes of the synchronizer record -/

/-- R36 step 1: entry to OFF; the armed set, counters, window and idle settings and frame time are kept. -/
def Syn.turnOff (y : Syn) : Syn :=
  { y with mode := .off, selected := none, polarity := .normal, phase := .strict, verifyCount := 0, missCount := 0,
           bitsToSync := 0, windowTimer := none, idleTimer := none, bitsFlowing := false, history := 0, fill := 0 }

/-- R33, R42: the four counters set to 0. -/
def Syn.zeroCounters (y : Syn) : Syn :=
  { y with locksAcquired := 0, framesProcessed := 0, framesCoasted := 0, checkFailures := 0 }

/-- R35: an accepted STREAM_ARM. -/
def Syn.arm (y : Syn) (f : ArmFields) (now : Time) : Syn :=
  { y with
    mode := .hunt
    phase := .strict
    armed := BitVec.ofNat 4 f.set
    selected := none
    polarity := .normal
    verifyCount := 0
    missCount := 0
    bitsToSync := 0
    frameTime := none
    window := f.window
    windowTimer := startTimer now f.window
    idleTimeout := f.idle
    idleTimer := some now
    bitsFlowing := false
    history := 0
    fill := 0
    locksAcquired := 0
    framesProcessed := 0
    framesCoasted := 0
    checkFailures := 0 }

/-! ### Stream requests (R34 to R37) -/

/-- R34 check 2: a slot of the set is EMPTY. -/
def State.armNamesEmpty (s : State) (set : Nat) : Bool := allSlots.any fun k => set.testBit k.val && (s.profile k).isNone

/-- R34, R35. -/
def runStreamArm (p : List Byte) (s : State) : Reply × State :=
  match (readArm p).failing with
  | some index => (.badValue index, s)
  | none =>
    if s.armNamesEmpty (readArm p).set then (.plain .noSuch, s)
    else if (s.syn.get (.ofField (readArm p).stream)).mode = .off
        ∨ (s.syn.get (.ofField (readArm p).stream)).mode = .stopped then
      (.ok [],
        (s.setSyn (.ofField (readArm p).stream)
          ((s.syn.get (.ofField (readArm p).stream)).arm (readArm p) s.timebase)).raiseSync
          (.ofField (readArm p).stream) .armed)
    else (.plain .wrongState, s)

/-- R36, R42: a stream that is not OFF goes to OFF: the record, the tracker's step 1, the SYNC_STATE with its reason, the
extraction stop. -/
def State.disarm (s : State) (i : StreamId) (why : SyncReason) : State :=
  (((s.setSyn i (s.syn.get i).turnOff).setTrk i (s.trk.get i).drop).raiseSync i why).extractionStop i .disarmed

/-- R36. -/
def runStreamDisarm (p : List Byte) (s : State) : Reply × State :=
  match fieldZeroFailing p 1 with
  | some index => (.badValue index, s)
  | none =>
    (.ok (byte (s.syn.get (.ofField (fieldAt p 0 1))).mode.code),
      if (s.syn.get (.ofField (fieldAt p 0 1))).mode = .off then s
      else s.disarm (.ofField (fieldAt p 0 1)) .disarmed)

/-- R37, section 10.8: the STREAM_STATUS reply. -/
def State.streamReport (s : State) (i : StreamId) : List Byte :=
  let y := s.syn.get i
  let t := s.trk.get i
  byte y.mode.code ++ byte y.phase.code ++ byte y.armed.toNat ++ byteOrNone (y.selected.map Fin.val)
    ++ byte y.polarity.code ++ byte y.verifyCount ++ byte y.missCount
    ++ be 2 y.window ++ yesNo y.windowTimer.isSome
    ++ be 2 ((y.windowTimer.map fun start => remainingMs s.timebase start y.window).getD 0)
    ++ be 2 y.idleTimeout ++ yesNo y.bitsFlowing
    ++ be 4 y.locksAcquired.toNat ++ be 4 y.framesProcessed.toNat ++ be 4 y.framesCoasted.toNat
    ++ be 4 y.checkFailures.toNat
    ++ presentBytes s.draws 6 (y.frameTime.map fun t => be 6 t.toNat)
    ++ byteOrNone (y.lastReason.map SyncReason.code) ++ byte t.major.code ++ wordOrNone t.lastId
    ++ be 4 t.majorCount.toNat

/-- R37. The frame time, when none, takes a free value (log 10, log 11). -/
def runStreamStatus (p : List Byte) (s : State) : Reply × State :=
  match fieldZeroFailing p 1 with
  | some index => (.badValue index, s)
  | none => (.ok (s.streamReport (.ofField (fieldAt p 0 1))), { s with draws := s.draws + 1 })

/-- STREAM_ARM (R34, R35). -/
def execStreamArm (s : State) : Host.Outcome State Fault Refusal := .next (s.executeKind kindStreamArm runStreamArm)

/-- STREAM_DISARM (R36). -/
def execStreamDisarm (s : State) : Host.Outcome State Fault Refusal := .next (s.executeKind kindStreamDisarm runStreamDisarm)

/-- STREAM_STATUS (R37). -/
def execStreamStatus (s : State) : Host.Outcome State Fault Refusal := .next (s.executeKind kindStreamStatus runStreamStatus)

end Sys2Proof.Machine
end

