-- ==== Sys2Proof/Machine/Turns.lean ====
section
/-! DEFINITION. The requests taken between two releases of one frame (R147, R189): which may be, and what taking one does. -/

namespace Sys2Proof.Machine

/-! ### Taking any request (R189 to R192) -/

/-- Section 10.8: the work of every request but RESET, by its kind. -/
def requestRuns : List (Byte × (List Byte → State → Reply × State)) :=
  [(kindPing, runPing), (kindTimeGet, runTimeGet), (kindProfileLoad, runProfileLoad), (kindProfileDrop, runProfileDrop),
   (kindProfileRead, runProfileRead), (kindStreamArm, runStreamArm), (kindStreamDisarm, runStreamDisarm),
   (kindStreamStatus, runStreamStatus), (kindMapAdd, runMapAdd), (kindMapRemove, runMapRemove),
   (kindMapCommit, runMapCommit), (kindMapDiscard, runMapDiscard), (kindMapList, runMapList),
   (kindChannelBind, runChannelBind), (kindChannelUnbind, runChannelUnbind), (kindChannelSet, runChannelSet),
   (kindChannelRead, runChannelRead), (kindChannelClear, runChannelClear), (kindQueueDrain, runQueueDrain),
   (kindRosterSet, runRosterSet), (kindRosterRead, runRosterRead), (kindRosterStart, runRosterStart),
   (kindRosterStop, runRosterStop), (kindNoticeMask, runNoticeMask), (kindNoticeGrant, runNoticeGrant)]

/-- R191, R192: a new request of any kind; of the RESETs, those that `Request.reaches` leaves: scope CHANNELS and the refused. -/
def actAny (q : Request) (s : State) : State :=
  if q.kind = kindReset then actResetChannels q s
  else
    match requestRuns.find? fun r => r.1 == q.kind with
    | some r => runChecked r.2 q s
    | none => s.answer q (badKind q)

/-- R189: the executor takes the request at the head of the inbound queue, whatever its kind. -/
def State.takeAny (s : State) : State := s.takeRequest (fun _ => true) actAny

/-! ### The requests that fall between two releases (R15, R147) -/

/-- R15: the request acts on the stream's synchronizer or reads it: a STREAM request of the stream, a RESET of scope FULL or
STREAMS. -/
def Request.reaches (q : Request) (i : StreamId) : Bool :=
  lengthAllowed q.kind q.payload.length
    && ((q.kind == kindReset && decide (fieldAt q.payload 0 1 < 2))
      || ((q.kind == kindStreamArm || q.kind == kindStreamDisarm || q.kind == kindStreamStatus)
        && decide (fieldAt q.payload 0 1 = i.index)))

/-- R15, R189: inside a bit of stream `i` the executor may take the request at the head: a reply place is free, and the
request, if no duplicate, does not reach the synchronizer whose bit is under way. -/
def State.requestWaits (s : State) (i : StreamId) : Bool :=
  match s.inbound with
  | [] => false
  | q :: _ => decide (s.replies.length < Config.replySlots) && ((s.cached q).isSome || !q.reaches i)

/-- R189: one turn of the executor inside a bit of stream `i`. -/
def State.takeTurn (i : StreamId) (s : State) : State := if s.requestWaits i then s.takeAny else s

/-- R147, R189: the requests taken right after a release of stream `i`. How many of those that wait is a free value (log 26,
log 11). Before the first, whose reply would hold it back (R195), a notice may be sent (R178, log 6). -/
def State.requestsBetween (s : State) (i : StreamId) : State :=
  if s.requestWaits i then
    (State.takeTurn i)^[min (Config.requestsFall s.sendInside.draws) s.inbound.length]
      { s.sendInside with draws := s.sendInside.draws + 1 }
  else s

end Sys2Proof.Machine
end

