-- ==== Sys2Proof/Machine/Tracking.lean ====
section
/-! DEFINITION. Frame tracking and staging (03): words, the major tracker, lookup, assembly, release, boundaries. -/

namespace Sys2Proof.Machine

/-! ### Lock gained and frame begin (R44, R48) -/

/-- R48: the tracker takes the selected profile and the polarity. -/
def Tracker.lockGained (t : Tracker) (k : Slot) (p : Profile) (pol : Polarity) : Tracker :=
  { t with
    profile := some k
    polarity := pol
    mismatch := 0
    lastId := none
    frameId := none
    assembly := []
    staging := []
    major := if p.majorLength = 1 then .majorLocked else .majorSearch
    previousId := if p.majorLength = 1 then some p.idBase else none
    majorCount := if p.majorLength = 1 then 0 else t.majorCount }

/-- R44: the ID a frame is given at its begin. -/
def Tracker.beginId (t : Tracker) (p : Profile) : Option Nat :=
  match t.major with
  | .majorLocked => if p.majorLength = 1 then some p.idBase else t.previousId.map p.succId
  | .majorSearch => none
  | .noMajor => none

/-- R44, R49: a new minor frame. With M = 1 the last ID becomes id_base. -/
def Tracker.beginFrame (t : Tracker) (p : Profile) (coasted : Bool) (stamp : Time) : Tracker :=
  { t with
    wordPos := p.syncWords + 1
    wordBits := 0
    word := 0
    checkReg := 0
    frameStamp := stamp
    flags := { FrameFlags.clear with coasted := coasted, inverted := t.polarity == .inverted }
    assembly := []
    staging := []
    extracting := t.major == .majorLocked
    frameId := t.beginId p
    lastId := if p.majorLength = 1 then some p.idBase else t.lastId }

/-! ### Bits and words (R45 to R47) -/

/-- R45, R47: a bit joins the word; a covered bit of a CRC16 frame is fed to the check register. -/
def Tracker.takeBit (t : Tracker) (p : Profile) (bit : Bool) : Tracker :=
  { t with
    word := (t.word <<< 1) ||| (BitVec.ofBool bit).setWidth 16
    wordBits := t.wordBits + 1
    checkReg :=
      if p.check = .crc16 ∧ t.wordPos < p.frameWords then crcBit 0x8005 t.checkReg bit else t.checkReg }

/-- The number of one-bits among the low `n` bits of a word. -/
def onesIn (n : Nat) (w : BitVec 16) : Nat := (List.range n).countP fun k => w.getLsbD k

/-- R3, R46: the completed word fails its parity check. -/
def Profile.parityFails (p : Profile) (w : BitVec 16) : Bool :=
  match p.parity with
  | .noParity => false
  | .odd => decide (onesIn p.wordLength w % 2 = 0)
  | .even => decide (onesIn p.wordLength w % 2 = 1)

/-- R2: the data bits of a completed word as a number, without the parity bit. -/
def Profile.data (p : Profile) (w : BitVec 16) : Nat := w.toNat / 2 ^ (p.wordLength - p.dataBits)

/-- R4, R49: the ID read from an ID word, its least significant b data bits. -/
def Profile.idRead (p : Profile) (w : BitVec 16) : Nat := p.data w % 2 ^ (p.idWidth.getD 0)

/-! ### The major tracker (R49 to R53) -/

/-- What the ID word reports to the rest of the part. -/
inductive IdOutcome where
  | quiet
  | gained
  | lost
  deriving DecidableEq, Repr

/-- R49, R50: an ID read, none when out of range. -/
def Profile.idIfInRange (p : Profile) (i : Nat) : Option Nat := if p.idInRange i then some i else none

/-- R50, R51: the ID word of a frame in MAJOR_SEARCH. -/
def Tracker.idSearch (t : Tracker) (p : Profile) (read : Nat) : Tracker × IdOutcome :=
  if p.idInRange read = true ∧ t.previousId.map p.succId = some read then
    ({ t with major := .majorLocked, mismatch := 0, majorCount := 0, frameId := some read, previousId := some read,
              lastId := some read }, .gained)
  else
    ({ t with frameId := p.idIfInRange read, previousId := p.idIfInRange read, lastId := p.idIfInRange read }, .quiet)

/-- R52, R53: the ID word of a frame in MAJOR_LOCKED with M > 1. -/
def Tracker.idLocked (t : Tracker) (p : Profile) (read : Nat) : Tracker × IdOutcome :=
  if t.frameId = some read then ({ t with mismatch := 0, previousId := t.frameId, lastId := t.frameId }, .quiet)
  else if t.mismatch = 0 then
    ({ t with mismatch := 1, flags := { t.flags with idPredicted := true }, previousId := t.frameId,
              lastId := t.frameId }, .quiet)
  else
    ({ t with major := .majorSearch, mismatch := 0, extracting := false, previousId := p.idIfInRange read,
              frameId := p.idIfInRange read, lastId := p.idIfInRange read }, .lost)

/-- R45 step 2: the ID handling by the major state. -/
def Tracker.idWord (t : Tracker) (p : Profile) (read : Nat) : Tracker × IdOutcome :=
  match t.major with
  | .majorSearch => t.idSearch p read
  | .majorLocked => t.idLocked p read
  | .noMajor => (t, .quiet)

/-- R51, R53: a gain raises MAJOR_GAINED; a loss raises MAJOR_LOST and then stops extraction. -/
def State.idHandling (s : State) (i : StreamId) (p : Profile) : State :=
  let out := (s.trk.get i).idWord p (p.idRead (s.trk.get i).word)
  match out.2 with
  | .quiet => s.setTrk i out.1
  | .gained => (s.setTrk i out.1).raiseSync i .majorGained
  | .lost => ((s.setTrk i out.1).raiseSync i .majorLost).extractionStop i .majorLost

/-! ### Lookup, assembly and staging (R55 to R58) -/

/-- R56: a fragment, with the entry's channel, index and width and the word's parity result. -/
structure Fragment where
  channel : ChannelId
  index : Nat
  width : Nat
  value : Nat
  parity : Bool
  deriving DecidableEq, Repr

/-- R56: data bits offset to offset + width − 1 of a word with D data bits, as an unsigned number. -/
def fragmentValue (dataBits data offset width : Nat) : Nat := data / 2 ^ (dataBits - offset - width) % 2 ^ width

/-- R55: the committed entries of the stream and profile at the position whose selector covers the frame ID, in
increasing channel number. -/
def lookup (entries : List MapEntry) (i : StreamId) (k : Slot) (position minorId : Nat) : List MapEntry :=
  (entries.filter fun e => e.stream == i && e.profile == k && e.position == position && e.covers minorId).insertionSort
    fun a b => a.channel.val ≤ b.channel.val

/-- R56: the fragment an entry takes from a completed word. -/
def Profile.fragment (p : Profile) (w : BitVec 16) (e : MapEntry) : Fragment :=
  ⟨e.channel, e.fragment, e.width, fragmentValue p.dataBits (p.data w) e.offset e.width, p.parityFails w⟩

/-- R58: a record leaves the assembly list when it is complete, and stands on it otherwise. -/
def Tracker.place (t : Tracker) (fragments : Nat) (a : Assembly) : Tracker :=
  if a.received = fragments then
    { t with
      assembly := t.assembly.filter fun x => x.channel != a.channel
      staging := t.staging ++ [⟨a.channel, a.value, a.parity⟩] }
  else { t with assembly := (t.assembly.filter fun x => x.channel != a.channel) ++ [a] }

/-- R57: one fragment at the assembly list, `fragments` being its channel's fragment count. -/
def Tracker.takeFragment (t : Tracker) (fragments : Nat) (f : Fragment) : Tracker :=
  if f.index = 0 then t.place fragments ⟨f.channel, 1, BitVec.ofNat 32 f.value, f.parity⟩
  else
    match t.assembly.find? fun a => a.channel == f.channel with
    | none => t
    | some a =>
      if a.received = f.index then
        t.place fragments
          ⟨f.channel, a.received + 1, (a.value <<< f.width) + BitVec.ofNat 32 f.value, a.parity || f.parity⟩
      else t

/-- R57: the fragment count of a channel, fixed at bind. -/
def State.fragmentCount (s : State) (c : ChannelId) : Nat :=
  match s.channel c with
  | some ch => ch.config.fragments
  | none => 0

/-- R55: the fragments of a word taken one after another. -/
def State.takeFragments (s : State) (i : StreamId) (fs : List Fragment) : State :=
  s.setTrk i (fs.foldl (fun t f => t.takeFragment (s.fragmentCount f.channel) f) (s.trk.get i))

/-- R45 step 3, R55: the lookup of the completed word. -/
def State.mapLookup (s : State) (i : StreamId) (k : Slot) (p : Profile) : State :=
  match (s.trk.get i).frameId with
  | none => s
  | some minorId =>
    s.takeFragments i ((lookup s.map i k (s.trk.get i).wordPos minorId).map (p.fragment (s.trk.get i).word))

/-! ### Minor frame end, release and boundary (R60 to R63) -/

/-- R47, R61: the frame failed its check. -/
def Tracker.checkFails (t : Tracker) (p : Profile) : Bool := decide (p.check = .crc16 ∧ t.checkReg ≠ t.word)

/-- R60 step 2, R33: the stream counters at a minor frame end. -/
def Syn.countFrame (y : Syn) (coasted checkFail : Bool) : Syn :=
  { y with
    framesProcessed := y.framesProcessed + 1
    framesCoasted := if coasted then y.framesCoasted + 1 else y.framesCoasted
    checkFailures := if checkFail then y.checkFailures + 1 else y.checkFailures }

/-- R62, R66: the sample a staged record becomes at release; its sequence is the Channel Table's to give. -/
def Tracker.sampleOf (t : Tracker) (g : Staged) : Sample where
  sequence := 0
  value := g.value
  flags := ⟨g.parity, t.flags.checkFail, t.flags.coasted, t.flags.idPredicted, t.flags.inverted⟩
  frameId := BitVec.ofNat 8 (t.frameId.getD 0)
  majorCount := t.majorCount
  stamp := t.frameStamp

/-- R62, R147: the staged samples released one after another, in staging order; requests may be taken after each. -/
def State.releaseAll (i : StreamId) (t : Tracker) : State → List Staged → State
  | s, [] => s
  | s, g :: rest => State.releaseAll i t ((s.release i g.channel (t.sampleOf g)).requestsBetween i) rest

/-- R63: the end is a major boundary. -/
def Tracker.atBoundary (t : Tracker) (p : Profile) : Bool :=
  decide (t.major = .majorLocked ∧ t.frameId = some p.lastMinorId)

/-- R63: the count goes up, the Roster Unit is told with the new count, and after it the map. -/
def State.majorBoundary (s : State) (i : StreamId) : State :=
  ((s.setTrk i { s.trk.get i with majorCount := (s.trk.get i).majorCount + 1 }).rosterBoundary i
    ((s.trk.get i).majorCount + 1)).settlePending i

/-- R60 step 4. DEDUCED (log 15): at its end the frame is no longer extracting and no bits of a word are held. -/
def Tracker.endFrame (t : Tracker) : Tracker :=
  { t with assembly := [], staging := [], extracting := false, wordBits := 0, word := 0 }

/-- R60: minor frame end, in its five steps. Step 4 stands before the releases of step 3, to which the samples are handed over:
nothing that may fall between the releases sees the lists. -/
def State.minorFrameEnd (s : State) (i : StreamId) (p : Profile) : State :=
  let t := { s.trk.get i with flags := { (s.trk.get i).flags with checkFail := (s.trk.get i).checkFails p } }
  let ended := (s.setTrk i t.endFrame).setSyn i ((s.syn.get i).countFrame t.flags.coasted t.flags.checkFail)
  let released := if t.extracting then State.releaseAll i t ended t.staging else ended
  if t.atBoundary p then released.majorBoundary i else released

/-- R45: the completed word: ID handling, lookup, then frame end or the next position. The parity result of step 1 is
`Profile.parityFails` of the word, which each fragment carries. -/
def State.wordComplete (s : State) (i : StreamId) (k : Slot) (p : Profile) : State :=
  let a := if p.idPosition = some (s.trk.get i).wordPos then s.idHandling i p else s
  let b := if (a.trk.get i).extracting then a.mapLookup i k p else a
  if (s.trk.get i).wordPos = p.frameWords then b.minorFrameEnd i p
  else b.setTrk i { b.trk.get i with wordPos := (s.trk.get i).wordPos + 1, wordBits := 0, word := 0 }

/-- R45: a bit handed to the tracker. A tracker with no LOADED profile takes none (log 16). -/
def State.trackerBit (s : State) (i : StreamId) (bit : Bool) : State :=
  match (s.trk.get i).profile with
  | none => s
  | some k =>
    match s.profile k with
    | none => s
    | some p =>
      if (s.trk.get i).wordBits + 1 < p.wordLength then s.setTrk i ((s.trk.get i).takeBit p bit)
      else (s.setTrk i ((s.trk.get i).takeBit p bit)).wordComplete i k p

end Sys2Proof.Machine
end

