-- ==== Sys2Proof/Machine/Sync.lean ====
section
/-! DEFINITION. Acquisition and lock (02): the events at the synchronizer. -/

namespace Sys2Proof.Machine

/-! ### Comparisons (R18) -/

/-- The number of one-bits among the low `n` bits of a value. -/
def onesBelow (n : Nat) (v : BitVec 64) : Nat := (List.range n).countP fun k => v.getLsbD k

/-- R18: the positions at which the most recent L bits differ from the pattern. -/
def differences (p : Profile) (history : BitVec 64) : Nat := onesBelow p.syncLength (history ^^^ p.syncPattern)

/-- R16: polarity correction of the bit history. -/
def Polarity.correctAll (pol : Polarity) (history : BitVec 64) : BitVec 64 :=
  match pol with
  | .normal => history
  | .inverted => ~~~history

/-- R16: polarity correction of a bit. -/
def Polarity.correct (pol : Polarity) (bit : Bool) : Bool :=
  match pol with
  | .normal => bit
  | .inverted => !bit

/-- R7, R18: the search tolerance of a profile in a phase. -/
def Profile.searchErrors (p : Profile) : Phase → Nat
  | .strict => p.huntErrors
  | .relaxed => p.relaxedErrors

/-- R18, R20: the polarity a profile matches with in HUNT, the pattern before its complement; none when it does not
match or the history is too short. -/
def Profile.searchMatch (p : Profile) (phase : Phase) (history : BitVec 64) (fill : Nat) : Option Polarity :=
  if fill < p.syncLength then none
  else if differences p history ≤ p.searchErrors phase then some .normal
  else if p.acceptInverted = true ∧ differences p (~~~history) ≤ p.searchErrors phase then some .inverted
  else none

/-- R20: the lowest-numbered armed slot that matches, with its profile and polarity. -/
def State.searchSelect (s : State) (y : Syn) : Option (Slot × Profile × Polarity) :=
  allSlots.findSome? fun k =>
    if y.armed.getLsbD k.val then
      match s.profile k with
      | none => none
      | some p => (p.searchMatch y.phase y.history y.fill).map fun pol => (k, p, pol)
    else none

/-- R18: an expected-sync comparison of the corrected bits against the pattern. -/
def Syn.expectedMatches (y : Syn) (p : Profile) : Bool :=
  decide (differences p (y.polarity.correctAll y.history) ≤ p.lockErrors)

/-! ### Changes of the synchronizer record -/

/-- R15, R31: a bit is appended to the history, the idle timer restarts, bits flowing is set. -/
def Syn.record (y : Syn) (bit : Bool) (now : Time) : Syn :=
  { y with
    history := (y.history <<< 1) ||| (BitVec.ofBool bit).setWidth 64
    fill := min (y.fill + 1) 64
    idleTimer := some now
    bitsFlowing := true }

/-- R20: HUNT selects a profile. -/
def Syn.select (y : Syn) (k : Slot) (p : Profile) (pol : Polarity) (now : Time) : Syn :=
  { y with mode := .verify, selected := some k, polarity := pol, verifyCount := 0, bitsToSync := p.frameBits,
           frameTime := some now }

/-- R22: verification failed or was ended by an idle expiry. -/
def Syn.verifyFailed (y : Syn) : Syn :=
  { y with mode := .hunt, selected := none, polarity := .normal, verifyCount := 0, bitsToSync := 0 }

/-- R23 steps 1 to 4: lock gained. -/
def Syn.gainLock (y : Syn) (p : Profile) : Syn :=
  { y with mode := .locked, missCount := 0, locksAcquired := y.locksAcquired + 1, windowTimer := none,
           bitsToSync := p.frameBits, verifyCount := y.verifyCount + 1 }

/-- R26 steps 1 and 2: lock lost. -/
def Syn.loseLock (y : Syn) (now : Time) : Syn :=
  { y with mode := .hunt, phase := .strict, polarity := .normal, selected := none, missCount := 0, verifyCount := 0,
           bitsToSync := 0, windowTimer := startTimer now y.window }

/-- R28: the phase relaxes and the window timer starts afresh. -/
def Syn.relax (y : Syn) (now : Time) : Syn := { y with phase := .relaxed, windowTimer := startTimer now y.window }

/-- R29: acquisition ends. -/
def Syn.giveUp (y : Syn) : Syn :=
  { y with mode := .stopped, selected := none, polarity := .normal, verifyCount := 0, bitsToSync := 0,
           windowTimer := none }

/-! ### Lock and frames (R19, R23 to R26) -/

/-- R19, R44: a minor frame begins at the tracker with the frame time and the coast status. -/
def State.frameBegin (s : State) (i : StreamId) (p : Profile) (coasted : Bool) : State :=
  s.setTrk i ((s.trk.get i).beginFrame p coasted s.timebase)

/-- R23: lock gained, in its order. -/
def State.gainLock (s : State) (i : StreamId) (k : Slot) (p : Profile) : State :=
  (((s.setSyn i ((s.syn.get i).gainLock p)).setTrk i
    ((s.trk.get i).lockGained k p (s.syn.get i).polarity)).frameBegin i p false).raiseSync i .verified

/-- R26: lock lost, in its order, with reason MISSES or IDLE. -/
def State.loseLock (s : State) (i : StreamId) (why : SyncReason) : State :=
  (((s.setSyn i ((s.syn.get i).loseLock s.timebase)).setTrk i (s.trk.get i).drop).raiseSync i why).extractionStop i
    .lockLost

/-- R24 and R25, the miss that is held through: COAST with a miss count, a SYNC_STATE MISS from LOCKED only, a coasted
frame. -/
def State.coastOn (s : State) (i : StreamId) (p : Profile) (misses : Nat) (raised : Bool) : State :=
  let coasting := s.setSyn i { s.syn.get i with mode := .coast, missCount := misses, bitsToSync := p.frameBits }
  (if raised then coasting.raiseSync i .miss else coasting).frameBegin i p true

/-- R21, R22: the expected sync position in VERIFY. -/
def State.verifyPosition (s : State) (i : StreamId) (k : Slot) (p : Profile) : State :=
  if (s.syn.get i).expectedMatches p then
    if (s.syn.get i).verifyCount + 1 < p.verifyFrames then
      s.setSyn i { s.syn.get i with verifyCount := (s.syn.get i).verifyCount + 1, bitsToSync := p.frameBits }
    else s.gainLock i k p
  else s.setSyn i (s.syn.get i).verifyFailed

/-- R24: the expected sync position in LOCKED. -/
def State.lockedPosition (s : State) (i : StreamId) (p : Profile) : State :=
  if (s.syn.get i).expectedMatches p then
    (s.setSyn i { s.syn.get i with bitsToSync := p.frameBits }).frameBegin i p false
  else if 1 ≤ p.coastFrames then s.coastOn i p 1 true
  else s.loseLock i .misses

/-- R25: the expected sync position in COAST. -/
def State.coastPosition (s : State) (i : StreamId) (p : Profile) : State :=
  if (s.syn.get i).expectedMatches p then
    ((s.setSyn i { s.syn.get i with mode := .locked, missCount := 0, bitsToSync := p.frameBits }).raiseSync i
      .recovered).frameBegin i p false
  else if (s.syn.get i).missCount + 1 ≤ p.coastFrames then s.coastOn i p ((s.syn.get i).missCount + 1) false
  else s.loseLock i .misses

/-- R19: the expected sync position is completed: its arrival time is the frame time, and the comparison follows. -/
def State.expectedPosition (s : State) (i : StreamId) (k : Slot) (p : Profile) : State :=
  let timed := s.setSyn i { s.syn.get i with bitsToSync := 0, frameTime := some s.timebase }
  match (s.syn.get i).mode with
  | .verify => timed.verifyPosition i k p
  | .locked => timed.lockedPosition i p
  | .coast => timed.coastPosition i p
  | .off => timed
  | .hunt => timed
  | .stopped => timed

/-- R19: a bit counted toward the next expected sync position; while lock is held, the bits before the next sync
pattern are handed to the tracker after polarity correction. -/
def State.followBit (s : State) (i : StreamId) (k : Slot) (p : Profile) (bit : Bool) : State :=
  if (s.syn.get i).bitsToSync - 1 = 0 then s.expectedPosition i k p
  else
    let counted := s.setSyn i { s.syn.get i with bitsToSync := (s.syn.get i).bitsToSync - 1 }
    if (s.syn.get i).holdsLock = true ∧ p.syncLength ≤ (s.syn.get i).bitsToSync - 1 then
      counted.trackerBit i ((s.syn.get i).polarity.correct bit)
    else counted

/-- R20: the search at a bit arrival in HUNT. -/
def State.search (s : State) (i : StreamId) : State :=
  match s.searchSelect (s.syn.get i) with
  | none => s
  | some (k, p, pol) => s.setSyn i ((s.syn.get i).select k p pol s.timebase)

/-- R19: following with the selected profile; without a LOADED one nothing follows (log 16). -/
def State.follow (s : State) (i : StreamId) (bit : Bool) : State :=
  match (s.syn.get i).selected with
  | none => s
  | some k =>
    match s.profile k with
    | none => s
    | some p => s.followBit i k p bit

/-- R15: the state's work for a recorded bit. -/
def State.bitWork (s : State) (i : StreamId) (bit : Bool) : State :=
  match (s.syn.get i).mode with
  | .off => s
  | .hunt => s.search i
  | .verify => s.follow i bit
  | .locked => s.follow i bit
  | .coast => s.follow i bit
  | .stopped => s

/-- R15: a bit arrival at a stream port. -/
def State.bitArrival (s : State) (i : StreamId) (bit : Bool) : State :=
  if (s.syn.get i).mode = .off then s
  else (s.setSyn i ((s.syn.get i).record bit s.timebase)).bitWork i bit

/-- BIT_ARRIVAL (R15). -/
def execBitArrival (stream : StreamId) (bit : Bool) (s : State) : Host.Outcome State Fault Refusal :=
  .next (s.bitArrival stream bit)

/-! ### Expiries (R28, R29, R32) -/

/-- R32: the further effect of an idle expiry, by state. -/
def State.idleEffect (s : State) (i : StreamId) : State :=
  match (s.syn.get i).mode with
  | .off => s
  | .hunt => s
  | .verify => s.setSyn i (s.syn.get i).verifyFailed
  | .locked => s.loseLock i .idle
  | .coast => s.loseLock i .idle
  | .stopped => s

/-- R31, R32: an idle expiry takes place when the timer runs and is due (log 2, log 3). -/
def State.idleExpiry (s : State) (i : StreamId) : State :=
  if timerDue s.timebase (s.syn.get i).idleTimer (s.syn.get i).idleTimeout then
    (s.setSyn i { s.syn.get i with bitsFlowing := false, idleTimer := none }).idleEffect i
  else s

/-- IDLE_EXPIRY (R32). -/
def execIdleExpiry (stream : StreamId) (s : State) : Host.Outcome State Fault Refusal := .next (s.idleExpiry stream)

/-- R28, R29: a window expiry takes place when the timer runs and is due (log 2, log 3). -/
def State.windowExpiry (s : State) (i : StreamId) : State :=
  if timerDue s.timebase (s.syn.get i).windowTimer (s.syn.get i).window then
    match (s.syn.get i).phase with
    | .strict => (s.setSyn i ((s.syn.get i).relax s.timebase)).raiseSync i .windowRelaxed
    | .relaxed => (s.setSyn i (s.syn.get i).giveUp).raiseSync i .windowStopped
  else s

/-- WINDOW_EXPIRY (R28, R29). -/
def execWindowExpiry (stream : StreamId) (s : State) : Host.Outcome State Fault Refusal :=
  .next (s.windowExpiry stream)

end Sys2Proof.Machine
end

