-- ==== Sys2Proof/Machine/Resets.lean ====
section
/-! DEFINITION. Power-on and the resets of scope FULL and STREAMS (R42, R197, R199, R200). -/

namespace Sys2Proof.Machine

/-! ### Power-on (R197) -/

/-- Section 10.9: the link rate the straps select. -/
def Straps.rate (t : Straps) : LinkRate :=
  match t.rate1, t.rate0 with
  | false, false => .r115200
  | false, true => .r460800
  | true, false => .r921600
  | true, true => .r3000000

/-- R197: every block in its power-on state, the rate as the straps select it, a READY with cause POWER_ON waiting.
The commands that wait and the count of free values are the model's own and stay. -/
def State.powerOn (s : State) (t : Straps) : State :=
  { State.reset with linkRate := Straps.rate t, draws := s.draws, pending := s.pending }

/-- POWER_ON_RESET (R197): from the pin going low to the part starting, as one step (log 7). -/
def execPowerOnReset (straps : Straps) (s : State) : Host.Outcome State Fault Refusal := .next (s.powerOn straps)

/-! ### RESET (R199, R200) -/

/-- R200: every block in its power-on state; the link rate and a frame in progress stay; a READY with cause REQUEST and
the tag waits. -/
def State.fullReset (s : State) (tag : Byte) : State :=
  { State.reset with
    linkRate := s.linkRate, tx := s.tx, ready := some (.request tag), draws := s.draws, pending := s.pending }

/-- R200: no ordinary reply is made and nothing is cached. -/
def actResetFull (q : Request) (s : State) : State :=
  match resetRefusal q with
  | some r => s.answer q r
  | none => s.fullReset q.tag

/-- RESET_FULL (R200). -/
def execResetFull (s : State) : Host.Outcome State Fault Refusal := .next (s.takeRequest (takesReset 0) actResetFull)

/-- R42: the armed set cleared and the counters set to 0. -/
def Syn.afterStreamsReset (y : Syn) : Syn := { y.zeroCounters with armed := 0 }

/-- R42, R67: a STREAMS reset of one stream: a stream not OFF is disarmed with reason RESET first. -/
def State.resetStream (s : State) (i : StreamId) : State :=
  let stopped := if (s.syn.get i).mode = .off then s else s.disarm i .reset
  (stopped.setSyn i (stopped.syn.get i).afterStreamsReset).setTrk i .reset

/-- R42, R183, R199: a STREAMS reset, stream 0 and then stream 1. Whether a notice is sent before the reset's reply, which is not
yet waiting, depends on when the transmitter is free: a free value when it may begin one at all. DESIGN CHOICE (log 27), unsafe: at
most one notice begins inside the reset, since no frame ends inside it (FRAME_SENT is a step of its own); R183 and R199 let the
reset's notices go on either side of its reply without such a bound. -/
def State.resetStreams (s : State) : State := ((s.resetStream .s0).resetStream .s1).sendInside

/-- R42, R199. -/
def actResetStreams (q : Request) (s : State) : State :=
  match resetRefusal q with
  | some r => s.answer q r
  | none => s.resetStreams.answer q (.ok (byte 1))

/-- RESET_STREAMS (R42). -/
def execResetStreams (s : State) : Host.Outcome State Fault Refusal :=
  .next (s.takeRequest (takesReset 1) actResetStreams)

end Sys2Proof.Machine
end

