-- ==== Sys2Proof/Machine/Dispatch.lean ====
section
/-! DEFINITION. One arm per row of the opcode table, each a call of its meaning. -/

namespace Sys2Proof.Machine

def exec (i : Instr) (s : State) : Host.Outcome State Fault Refusal :=
  match i with
  | .powerOnReset straps => Sys2Proof.Machine.execPowerOnReset straps s
  | .bitArrival stream bit => Sys2Proof.Machine.execBitArrival stream bit s
  | .idleExpiry stream => Sys2Proof.Machine.execIdleExpiry stream s
  | .windowExpiry stream => Sys2Proof.Machine.execWindowExpiry stream s
  | .staleTimerExpiry channel => Sys2Proof.Machine.execStaleTimerExpiry channel s
  | .frameReceived bytes => Sys2Proof.Machine.execFrameReceived bytes s
  | .gapTimerExpiry => Sys2Proof.Machine.execGapTimerExpiry s
  | .sendReady => Sys2Proof.Machine.execSendReady s
  | .sendReply => Sys2Proof.Machine.execSendReply s
  | .noticeSend => Sys2Proof.Machine.execNoticeSend s
  | .frameSent => Sys2Proof.Machine.execFrameSent s
  | .ping => Sys2Proof.Machine.execPing s
  | .timeGet => Sys2Proof.Machine.execTimeGet s
  | .resetFull => Sys2Proof.Machine.execResetFull s
  | .resetStreams => Sys2Proof.Machine.execResetStreams s
  | .resetChannels => Sys2Proof.Machine.execResetChannels s
  | .profileLoad => Sys2Proof.Machine.execProfileLoad s
  | .profileDrop => Sys2Proof.Machine.execProfileDrop s
  | .profileRead => Sys2Proof.Machine.execProfileRead s
  | .streamArm => Sys2Proof.Machine.execStreamArm s
  | .streamDisarm => Sys2Proof.Machine.execStreamDisarm s
  | .streamStatus => Sys2Proof.Machine.execStreamStatus s
  | .mapAdd => Sys2Proof.Machine.execMapAdd s
  | .mapRemove => Sys2Proof.Machine.execMapRemove s
  | .mapCommit => Sys2Proof.Machine.execMapCommit s
  | .mapDiscard => Sys2Proof.Machine.execMapDiscard s
  | .mapList => Sys2Proof.Machine.execMapList s
  | .channelBind => Sys2Proof.Machine.execChannelBind s
  | .channelUnbind => Sys2Proof.Machine.execChannelUnbind s
  | .channelSet => Sys2Proof.Machine.execChannelSet s
  | .channelRead => Sys2Proof.Machine.execChannelRead s
  | .channelClearLatches => Sys2Proof.Machine.execChannelClearLatches s
  | .channelClearValue => Sys2Proof.Machine.execChannelClearValue s
  | .channelClearQueue => Sys2Proof.Machine.execChannelClearQueue s
  | .queueDrain => Sys2Proof.Machine.execQueueDrain s
  | .rosterSet => Sys2Proof.Machine.execRosterSet s
  | .rosterRead => Sys2Proof.Machine.execRosterRead s
  | .rosterStart => Sys2Proof.Machine.execRosterStart s
  | .rosterStop => Sys2Proof.Machine.execRosterStop s
  | .noticeMask => Sys2Proof.Machine.execNoticeMask s
  | .noticeGrant => Sys2Proof.Machine.execNoticeGrant s
  | .badKind => Sys2Proof.Machine.execBadKind s
  | .byteArrival byte => Sys2Proof.Machine.execByteArrival byte s
  | .timebaseTick => Sys2Proof.Machine.execTimebaseTick s

end Sys2Proof.Machine
end

