-- ==== Sys2Proof/Safety.lean ====
section
/-! DEFINITION. The legal states of the part: what the spec says always holds of its records, block by block, and the
premises under which a request is taken as a new one. -/

namespace Sys2Proof

/-- The request kind that a row takes; none for a row that is not a request and for BAD_KIND. -/
def Instr.requestKind : Instr → Option Byte
  | .ping => some Machine.kindPing
  | .timeGet => some Machine.kindTimeGet
  | .resetFull => some Machine.kindReset
  | .resetStreams => some Machine.kindReset
  | .resetChannels => some Machine.kindReset
  | .profileLoad => some Machine.kindProfileLoad
  | .profileDrop => some Machine.kindProfileDrop
  | .profileRead => some Machine.kindProfileRead
  | .streamArm => some Machine.kindStreamArm
  | .streamDisarm => some Machine.kindStreamDisarm
  | .streamStatus => some Machine.kindStreamStatus
  | .mapAdd => some Machine.kindMapAdd
  | .mapRemove => some Machine.kindMapRemove
  | .mapCommit => some Machine.kindMapCommit
  | .mapDiscard => some Machine.kindMapDiscard
  | .mapList => some Machine.kindMapList
  | .channelBind => some Machine.kindChannelBind
  | .channelUnbind => some Machine.kindChannelUnbind
  | .channelSet => some Machine.kindChannelSet
  | .channelRead => some Machine.kindChannelRead
  | .channelClearLatches => some Machine.kindChannelClear
  | .channelClearValue => some Machine.kindChannelClear
  | .channelClearQueue => some Machine.kindChannelClear
  | .queueDrain => some Machine.kindQueueDrain
  | .rosterSet => some Machine.kindRosterSet
  | .rosterRead => some Machine.kindRosterRead
  | .rosterStart => some Machine.kindRosterStart
  | .rosterStop => some Machine.kindRosterStop
  | .noticeMask => some Machine.kindNoticeMask
  | .noticeGrant => some Machine.kindNoticeGrant
  | .badKind => none
  | .powerOnReset _ => none
  | .bitArrival _ _ => none
  | .idleExpiry _ => none
  | .windowExpiry _ => none
  | .staleTimerExpiry _ => none
  | .frameReceived _ => none
  | .gapTimerExpiry => none
  | .sendReady => none
  | .sendReply => none
  | .noticeSend => none
  | .frameSent => none
  | .byteArrival _ => none
  | .timebaseTick => none

/-- The rows that are steps of the executor. -/
def Instr.isRequest (c : Instr) : Bool := c.requestKind.isSome || c == .badKind

end Sys2Proof

namespace Sys2Proof.Machine

/-- The requests a row takes (log 1): those of its kind; for RESET and CHANNEL_CLEAR those its row names (log 13); for
BAD_KIND those whose kind byte names no request. -/
def takenBy (c : Instr) (q : Request) : Bool :=
  match c with
  | .badKind => !kindKnown q.kind
  | .resetFull => takesReset 0 q
  | .resetStreams => takesReset 1 q
  | .resetChannels => takesReset 2 q
  | .channelClearLatches => takesClear 0 q
  | .channelClearValue => takesClear 1 q
  | .channelClearQueue => takesClear 2 q
  | _ => c.requestKind == some q.kind

/-! ### The executor's premises (R189, R190, R192) -/

/-- The executor may take `q`, with `rest` behind it (R189). -/
def State.head (s : State) (q : Request) (rest : List Request) : Prop :=
  s.inbound = q :: rest ∧ s.replies.length < Config.replySlots

/-- `q` can be taken and is no duplicate (R190). -/
def State.fresh (s : State) (q : Request) (rest : List Request) : Prop := s.head q rest ∧ s.cached q = none

/-- `q` can be taken, is no duplicate, and has the kind and an allowed length of payload (R189 to R192). -/
def State.asks (s : State) (q : Request) (rest : List Request) (kind : Byte) : Prop :=
  s.fresh q rest ∧ q.kind = kind ∧ lengthAllowed kind q.payload.length = true

/-- The state once the request at the head has been answered and nothing outside the Link Interface changed (R189, R194). -/
def State.answered (s : State) (q : Request) (rest : List Request) (status : Status) (payload : List Byte) : State :=
  { s with
    inbound := rest
    replies := s.replies ++ [replyKind q.kind :: q.tag :: BitVec.ofNat 8 status.code :: payload]
    cache := placeInCache s.cache
      ⟨q.tag, q.kind, replyKind q.kind :: q.tag :: BitVec.ofNat 8 status.code :: payload⟩ }

/-- R15: a request that names the synchronizer of stream `i` or acts on both: RESET of scope FULL or STREAMS, STREAM_ARM,
STREAM_DISARM, STREAM_STATUS. -/
def Request.AtStream (q : Request) (i : StreamId) : Prop :=
  (q.kind = 0x03 ∧ (q.payload = [0] ∨ q.payload = [1]))
    ∨ (q.kind = 0x10 ∧ q.payload.length = 6 ∧ q.payload.head? = some (BitVec.ofNat 8 i.index))
    ∨ ((q.kind = 0x11 ∨ q.kind = 0x12) ∧ q.payload = [BitVec.ofNat 8 i.index])

/-- R147, R189, R190: a row of the executor takes the request at the head, inside a bit of stream `i`, and leaves `v`. One at the
stream's own synchronizer is taken there only as a duplicate (R15). -/
def State.TurnTo (i : StreamId) (s v : State) : Prop :=
  ∃ (c : Instr) (q : Request) (rest : List Request), s.head q rest ∧ c.isRequest = true ∧ takenBy c q = true
    ∧ (q.AtStream i → ∃ e ∈ s.cache, e.tag = q.tag ∧ e.kind = q.kind) ∧ exec c s = .next v

/-! ### The link (R185, R187, R188, R194, R195) -/

/-- R185: SEEK holds nothing; outside it the buffer holds the start byte and what has been taken of the frame. -/
def Receiver.shaped (r : Receiver) : Prop :=
  match r.mode with
  | .seek => r.buffer = [] ∧ r.length = 0
  | .length => r.length = 0 ∧ ∃ rest, r.buffer = startByte :: rest ∧ rest.length ≤ 1
  | .body =>
    2 ≤ r.length ∧ r.length ≤ 250
      ∧ ∃ rest, r.buffer = startByte :: rest ∧ readBE (rest.take 2) = r.length ∧ 2 ≤ rest.length
        ∧ rest.length < 2 + r.length
  | .check =>
    2 ≤ r.length ∧ r.length ≤ 250
      ∧ ∃ rest, r.buffer = startByte :: rest ∧ readBE (rest.take 2) = r.length ∧ 2 + r.length ≤ rest.length
        ∧ rest.length < 4 + r.length

/-- R185, R187: the gap timer is stopped in SEEK and runs outside it. -/
def Receiver.legal (r : Receiver) : Prop := r.shaped ∧ (r.gapTimer = none ↔ r.mode = .seek)

/-- The link's queues and cache. -/
structure State.LinkLegal (s : State) : Prop where
  receiver : s.rx.legal
  inboundSlots : s.inbound.length ≤ 4
  payloads : ∀ q ∈ s.inbound, q.payload.length ≤ 248
  replySlots : s.replies.length ≤ 4
  cacheSlots : s.cache.length ≤ 4
  cacheTags : s.cache.Pairwise fun a b => a.tag ≠ b.tag

/-! ### The Notice Unit (R164, R165, R170, R172, R175) -/

structure NoticeUnit.Legal (n : NoticeUnit) : Prop where
  slots : n.queue.length ≤ 32
  distinct : n.queue.Pairwise fun a b => a.content.sameNotice b.content = false
  enabled : ∀ m ∈ n.queue, n.enabled m.content.kind = true
  coalesced : ∀ m ∈ n.queue, m.coalesced ≤ 255
  credits : n.credits ≤ 255
  dropped : n.dropped ≤ 65535

/-! ### Channels, queues and the pool (05, 06, 07) -/

/-- What holds of every BOUND record. -/
structure Channel.Legal (ch : Channel) : Prop where
  fragments : 1 ≤ ch.config.fragments ∧ ch.config.fragments ≤ 4
  capacity : ch.config.capacity ≤ 512
  watermark : ch.config.watermark ≤ ch.config.capacity
  settleCount : 1 ≤ ch.settings.settleCount ∧ ch.settings.settleCount ≤ 15
  deadband : ch.settings.deadband ≤ 65535
  staleWindow : ch.settings.staleWindow ≤ 65535
  limits : ch.settings.limitsEnabled = true → limitsFit ch.config.signed ch.settings = true
  agree : ch.agree ≤ ch.settings.settleCount
  noCandidate : ch.candidate = none → ch.agree = 0
  noSettled : ch.settled = none → ch.limit = .normal
  noLimits : ch.settings.limitsEnabled = false → ch.limit = .normal
  sequence : ∀ r, ch.data.last = some r → r.sequence + 1 = ch.nextSeq
  timer : ch.staleTimer ≠ none → ch.data.reported = .current ∧ 0 < ch.settings.staleWindow
  fill : ch.queue.records.length ≤ ch.config.capacity
  dropped : ch.queue.dropped ≤ 65535
  armed : ch.queue.flagArmed = true → 0 < ch.config.watermark → ch.queue.records.length < ch.config.watermark

/-- R135: the slots reserved by the bound channels. -/
def State.reserved (s : State) : Nat :=
  (allChannels.map fun c => match s.channel c with
    | some ch => ch.config.capacity
    | none => 0).sum

/-- Every bound record is legal and the pool adds up (R135). -/
structure State.ChannelsLegal (s : State) : Prop where
  records : ∀ c ch, s.channel c = some ch → ch.Legal
  pool : s.poolFree + s.reserved = 2048

/-! ### Rosters (R151) -/

structure Roster.Legal (v : Roster) : Prop where
  slots : v.list.length ≤ 16
  distinct : v.list.Nodup
  period : 1 ≤ v.period ∧ v.period ≤ 255
  idle : v.mode = .idle → v.countdown = 0
  periodic : v.mode = .periodic → 1 ≤ v.countdown ∧ v.countdown ≤ v.period

/-! ### Profiles (section 1.6, R10) -/

/-- The ranges and dependencies of a LOADED slot's fields. -/
structure Profile.Legal (p : Profile) : Prop where
  wordLength : 4 ≤ p.wordLength ∧ p.wordLength ≤ 16
  syncLength : 8 ≤ p.syncLength ∧ p.syncLength ≤ 64 ∧ p.syncLength % p.wordLength = 0
  pattern : p.syncPattern.toNat < 2 ^ p.syncLength
  frameWords : p.syncWords + 1 ≤ p.frameWords ∧ p.frameWords ≤ 1024
  majorLength : 1 ≤ p.majorLength ∧ p.majorLength ≤ 256
  oneMinor : p.majorLength = 1 → p.idPosition = none ∧ p.idWidth = none
  idWord : 1 < p.majorLength → ∃ w b, p.idPosition = some w ∧ p.idWidth = some b ∧ p.syncWords + 1 ≤ w
    ∧ w ≤ p.frameWords ∧ 1 ≤ b ∧ b ≤ p.dataBits ∧ p.idBase + p.majorLength ≤ 2 ^ b
  idBase : p.idBase ≤ 1
  checked : p.check = .crc16 → p.wordLength = 16 ∧ p.parity = .noParity ∧ p.syncWords + 2 ≤ p.frameWords
    ∧ p.idPosition ≠ some p.frameWords
  tolerances : p.huntErrors ≤ p.relaxedErrors ∧ p.relaxedErrors ≤ 7 ∧ p.lockErrors ≤ 7
  verifyFrames : 1 ≤ p.verifyFrames ∧ p.verifyFrames ≤ 15
  coastFrames : p.coastFrames ≤ 15

/-- The PROFILE_LOAD payload that carries the fields (section 10.8). -/
def LoadFields.bytes (f : LoadFields) : List Byte :=
  byte f.slot ++ byte f.wordLength ++ byte f.syncLength ++ be 8 f.pattern ++ be 2 f.frameWords ++ be 2 f.majorLength
    ++ be 2 f.idPosition ++ byte f.idWidth ++ byte f.idBase ++ byte f.idDirection ++ byte f.parity ++ byte f.check
    ++ byte f.hunt ++ byte f.relaxed ++ byte f.lock ++ byte f.verify ++ byte f.coast ++ byte f.inverted

/-- Every field fits its place in the payload. -/
def LoadFields.fits (f : LoadFields) : Prop :=
  f.slot < 256 ∧ f.wordLength < 256 ∧ f.syncLength < 256 ∧ f.pattern < 2 ^ 64 ∧ f.frameWords < 65536
    ∧ f.majorLength < 65536 ∧ f.idPosition < 65536 ∧ f.idWidth < 256 ∧ f.idBase < 256 ∧ f.idDirection < 256
    ∧ f.parity < 256 ∧ f.check < 256 ∧ f.hunt < 256 ∧ f.relaxed < 256 ∧ f.lock < 256 ∧ f.verify < 256 ∧ f.coast < 256
    ∧ f.inverted < 256

/-- R9, R10: field `n` lies outside its own range (section 1.6) or breaks the dependency R10 puts there. Fields 6 and 7
are not examined when M = 1. -/
def LoadFields.Breaks (f : LoadFields) (n : Nat) : Prop :=
  match n with
  | 0 => ¬ f.slot ≤ 3
  | 1 => ¬ (4 ≤ f.wordLength ∧ f.wordLength ≤ 16)
  | 2 => ¬ (8 ≤ f.syncLength ∧ f.syncLength ≤ 64) ∨ f.syncLength % f.wordLength ≠ 0
  | 3 => 2 ^ f.syncLength ≤ f.pattern
  | 4 => ¬ (1 ≤ f.frameWords ∧ f.frameWords ≤ 1024) ∨ f.frameWords < f.syncLength / f.wordLength + 1
  | 5 => ¬ (1 ≤ f.majorLength ∧ f.majorLength ≤ 256)
  | 6 =>
    1 < f.majorLength
      ∧ (¬ (1 ≤ f.idPosition ∧ f.idPosition ≤ 1024) ∨ f.idPosition < f.syncLength / f.wordLength + 1
        ∨ f.frameWords < f.idPosition)
  | 7 => 1 < f.majorLength ∧ (¬ (1 ≤ f.idWidth ∧ f.idWidth ≤ 16) ∨ f.wordLength < f.idWidth ∨ 2 ^ f.idWidth < f.majorLength)
  | 8 => ¬ f.idBase ≤ 1 ∨ (1 < f.majorLength ∧ 2 ^ f.idWidth - 1 < f.idBase + f.majorLength - 1)
  | 9 => ¬ f.idDirection ≤ 1
  | 10 => ¬ f.parity ≤ 2 ∨ (1 < f.majorLength ∧ (f.parity = 1 ∨ f.parity = 2) ∧ f.wordLength - 1 < f.idWidth)
  | 11 =>
    ¬ f.check ≤ 1
      ∨ (f.check = 1 ∧ (f.wordLength ≠ 16 ∨ f.parity ≠ 0 ∨ f.frameWords < f.syncLength / f.wordLength + 2
        ∨ (1 < f.majorLength ∧ f.idPosition = f.frameWords)))
  | 12 => ¬ f.hunt ≤ 7
  | 13 => ¬ f.relaxed ≤ 7 ∨ f.relaxed < f.hunt
  | 14 => ¬ f.lock ≤ 7
  | 15 => ¬ (1 ≤ f.verify ∧ f.verify ≤ 15)
  | 16 => ¬ f.coast ≤ 15
  | 17 => ¬ f.inverted ≤ 1
  | _ => False

/-! ### Streams (02, 03) -/

/-- R18, R20: a profile matches the received bits in HUNT with a polarity, the complement only when the pattern did
not. -/
def Syn.hits (y : Syn) (p : Profile) : Polarity → Prop
  | .normal => p.syncLength ≤ y.fill ∧ differences p y.history ≤ p.searchErrors y.phase
  | .inverted =>
    p.syncLength ≤ y.fill ∧ ¬ differences p y.history ≤ p.searchErrors y.phase ∧ p.acceptInverted = true
      ∧ differences p (~~~y.history) ≤ p.searchErrors y.phase

/-- VERIFY, LOCKED and COAST: a profile is followed (R17). -/
def Syn.follows (y : Syn) : Bool := decide (y.mode = .verify ∨ y.mode = .locked ∨ y.mode = .coast)

/-- R17, R19, R25: what holds while a profile is followed, `k` and `p` being the selected slot and its contents. -/
structure Syn.Following (y : Syn) (k : Slot) (p : Profile) : Prop where
  inArmedSet : y.armed.getLsbD k.val = true
  bitsToSync : 1 ≤ y.bitsToSync ∧ y.bitsToSync ≤ p.frameBits
  verify : y.mode = .verify → y.verifyCount < p.verifyFrames
  verifyCount : y.verifyCount ≤ 15
  coast : y.mode = .coast → 1 ≤ y.missCount ∧ y.missCount ≤ p.coastFrames

/-- R17, R27, R31: what holds of the record in every state. -/
structure Syn.Legal (y : Syn) : Prop where
  idle : y.follows = false → y.selected = none ∧ y.polarity = .normal ∧ y.bitsToSync = 0 ∧ y.verifyCount = 0
  misses : y.mode ≠ .coast → y.missCount = 0
  windowTimer : y.windowTimer ≠ none → (y.mode = .hunt ∨ y.mode = .verify) ∧ 0 < y.window
  off : y.mode = .off → y.idleTimer = none ∧ y.bitsFlowing = false ∧ y.fill = 0 ∧ y.phase = .strict
  stopped : y.mode = .stopped → y.phase = .relaxed
  flowing : y.bitsFlowing = true → y.idleTimer ≠ none
  idleTimeout : 1 ≤ y.idleTimeout ∧ y.idleTimeout ≤ 1000
  window : y.window ≤ 65535
  fill : y.fill ≤ 64

/-- R43, R44, R65: what holds of the tracker while its synchronizer does not hold lock. -/
structure Tracker.Idle (t : Tracker) : Prop where
  major : t.major = .noMajor
  profile : t.profile = none
  previousId : t.previousId = none
  frameId : t.frameId = none
  mismatch : t.mismatch = 0

/-- R43, R45, R59: what holds of the tracker while lock is held, with `left` bits to the next expected sync position. -/
structure Tracker.Tracking (t : Tracker) (k : Slot) (p : Profile) (left : Nat) : Prop where
  major : t.major ≠ .noMajor
  profile : t.profile = some k
  oneMinor : p.majorLength = 1 → t.major = .majorLocked
  previousId : t.major = .majorLocked → t.previousId ≠ none
  frameId : t.major = .majorLocked → t.frameId ≠ none
  word : p.syncLength < left → p.syncWords + 1 ≤ t.wordPos ∧ t.wordPos ≤ p.frameWords ∧ t.wordBits < p.wordLength
    ∧ left + t.wordBits = p.syncLength + (p.frameWords - t.wordPos + 1) * p.wordLength
  syncBits : left ≤ p.syncLength → t.extracting = false

/-- R43, R59: what holds of the tracker in every state. -/
structure Tracker.Legal (t : Tracker) : Prop where
  extracting : t.extracting = true → t.major = .majorLocked
  lists : t.extracting = false → t.assembly = [] ∧ t.staging = []
  mismatch : t.mismatch ≤ 1
  predicted : t.mismatch = 1 → t.major = .majorLocked

/-- One stream's records, its profile, and its pending commit (R72). -/
structure State.StreamLegal (s : State) (i : StreamId) : Prop where
  syn : (s.syn.get i).Legal
  trk : (s.trk.get i).Legal
  armed : (s.syn.get i).mode ≠ .off → ∀ k : Slot, (s.syn.get i).armed.getLsbD k.val = true → (s.profile k).isSome
  following : (s.syn.get i).follows = true → ∃ k p, (s.syn.get i).selected = some k ∧ s.profile k = some p
    ∧ (s.syn.get i).Following k p
    ∧ ((s.syn.get i).holdsLock = true → (s.trk.get i).Tracking k p (s.syn.get i).bitsToSync)
  noLock : (s.syn.get i).holdsLock = false → (s.trk.get i).Idle
  pending : (s.stage.get i).pending = true → s.extractionActive i = true
  staged : (s.stage.get i).edits.length ≤ 64

/-- The profiles and both streams. -/
structure State.StreamsLegal (s : State) : Prop where
  profiles : ∀ k p, s.profile k = some p → p.Legal
  streams : ∀ i, s.StreamLegal i

/-- R44: the tracker's record right after a frame begin. -/
def Tracker.begun (t : Tracker) (p : Profile) (coasted : Bool) (now : Time) : Tracker :=
  { t with
    extracting := decide (t.major = .majorLocked)
    frameId :=
      if t.major = .majorLocked then if p.majorLength = 1 then some p.idBase else t.previousId.map p.succId else none
    lastId := if p.majorLength = 1 then some p.idBase else t.lastId
    wordPos := p.syncLength / p.wordLength + 1
    wordBits := 0
    word := 0
    checkReg := 0
    flags := ⟨coasted, decide (t.polarity = .inverted), false, false⟩
    frameStamp := now
    assembly := []
    staging := [] }

/-! ### The map (R68, R69, R71) -/

/-- An entry names a channel BOUND to its stream and a LOADED profile (R68). -/
def State.supports (s : State) (e : MapEntry) : Prop := s.boundTo e.channel e.stream = true ∧ (s.profile e.profile).isSome

/-- No two entries share channel, profile and fragment (R68). -/
def keysDistinct (entries : List MapEntry) : Prop := entries.Pairwise fun a b => a.sameKey b = false

/-- The entries of a stream, in their order. -/
def ofStream (i : StreamId) (entries : List MapEntry) : List MapEntry := entries.filter fun e => e.stream == i

/-- R68, R69, R79, R85: the committed entries and the pending commits. -/
structure State.MapLegal (s : State) : Prop where
  entries : ∀ e ∈ s.map, s.supports e
  keys : keysDistinct s.map
  stagedStream : ∀ i e, Edit.add e ∈ (s.stage.get i).edits → e.stream = i
  pendingAdds : ∀ i e, (s.stage.get i).pending = true → Edit.add e ∈ (s.stage.get i).edits → s.supports e
  pendingKeys : ∀ i, (s.stage.get i).pending = true →
    keysDistinct (applyEdits i (ofStream i s.map) (s.stage.get i).edits)
  growth : ∀ i, (s.stage.get i).pending = true →
    (s.stage.get i).growth = (countOf i (applyEdits i s.map (s.stage.get i).edits) : Int) - (countOf i s.map : Int)

/-! ### The power-on state (R41, R67, R90, R114, R163, R182, R187, R197, R200) -/

/-- R41: a synchronizer after power-on and after a FULL reset. -/
structure Syn.AtPowerOn (y : Syn) : Prop where
  mode : y.mode = .off
  phase : y.phase = .strict
  armed : y.armed = 0
  selected : y.selected = none
  polarity : y.polarity = .normal
  counts : y.verifyCount = 0 ∧ y.missCount = 0 ∧ y.bitsToSync = 0
  frameTime : y.frameTime = none
  window : y.window = 0 ∧ y.windowTimer = none
  idle : y.idleTimeout = 1 ∧ y.idleTimer = none
  bitsFlowing : y.bitsFlowing = false
  history : y.fill = 0
  counters : y.locksAcquired = 0 ∧ y.framesProcessed = 0 ∧ y.framesCoasted = 0 ∧ y.checkFailures = 0
  lastReason : y.lastReason = none

/-- R67: a tracker after power-on, after a FULL reset and after a STREAMS reset. -/
structure Tracker.AtPowerOn (t : Tracker) : Prop where
  major : t.major = .noMajor
  profile : t.profile = none
  polarity : t.polarity = .normal
  ids : t.previousId = none ∧ t.frameId = none ∧ t.lastId = none
  mismatch : t.mismatch = 0
  extracting : t.extracting = false
  lists : t.assembly = [] ∧ t.staging = []
  checkReg : t.checkReg = 0
  flags : t.flags = ⟨false, false, false, false⟩
  majorCount : t.majorCount = 0

/-- Every block in its power-on state; the link rate, the transmitter and the READY are not in it. -/
structure State.AtPowerOn (s : State) : Prop where
  timebase : s.timebase = 0
  receiver : s.rx.mode = .seek ∧ s.rx.buffer = [] ∧ s.rx.gapTimer = none
  queues : s.inbound = [] ∧ s.replies = [] ∧ s.cache = []
  profiles : ∀ k, s.profile k = none
  syn : ∀ i, (s.syn.get i).AtPowerOn
  trk : ∀ i, (s.trk.get i).AtPowerOn
  map : s.map = [] ∧ ∀ i, (s.stage.get i).edits = [] ∧ (s.stage.get i).pending = false
  channels : ∀ c, s.channel c = none
  pool : s.poolFree = 2048
  rosters : ∀ r, s.roster r = ⟨[], .idle, .s0, 1, 0⟩
  notices : s.notices = ⟨[], 0, 0, 0, 0⟩

end Sys2Proof.Machine
end

