-- ==== Sys2Proof/Certificates/Slice0/Obligations.lean ====
section
/-! DEFINITION. The statements for the provers, block by block in the order of the spec's chapters. A request row is stated
on the frame at the head of the inbound queue (log 1), its payload written out by section 10.8. What the raises of a step do,
`State.raiseAll`, is `RaiseTaken` (a notice sent between two of them: log 6). -/

section Statements

open Sys2Proof Sys2Proof.Machine

/-! ### The machine -/

/-- A step runs the command at the front of the queue with the queue's rest. With nothing waiting the part idles: the
model's own choice (log 4). -/
def Obligations.StepRunsTheFrontCommand : Prop :=
  (∀ (c : Instr) (rest : List Instr) (s : State), step { s with pending := c :: rest } = exec c { s with pending := rest })
    ∧ ∀ s : State, s.pending = [] → step s = .next s

/-- Every command but the stale timer of a channel the part does not have answers a next state and leaves the queue of
waiting commands as it was; that one always faults (the model's choice, log 17). A command whose condition fails does not
take place, and the next state is then the state before (the model's choice, log 2). -/
def Obligations.CommandsComplete : Prop :=
  ∀ (c : Instr) (s : State),
    ((∀ n, c = .staleTimerExpiry n → n < 128) → ∃ t, exec c s = .next t ∧ t.pending = s.pending)
      ∧ ∀ n, c = .staleTimerExpiry n → 128 ≤ n → exec c s = .fault (.noSuchChannel n)

/-! ### Resets (R197, R199, R200, R41, R67, R90, R114, R163, R182) -/

/-- R114, R182, R197: every block is in its power-on state in the reset state and after a power-on reset, with a READY of
cause POWER_ON waiting and the link rate of section 10.9. That the reset is one whole step is the model's choice (log 7). -/
def Obligations.PowerOn : Prop :=
  State.reset.AtPowerOn ∧ State.reset.ready = some .powerOn ∧ State.reset.tx = none ∧ State.reset.pending = []
    ∧ ∀ (a b : Bool) (s : State), ∃ t, exec (.powerOnReset ⟨a, b⟩) s = .next t ∧ t.AtPowerOn ∧ t.ready = some .powerOn
        ∧ t.tx = none ∧ t.pending = s.pending
        ∧ t.linkRate = (if a then if b then .r3000000 else .r921600 else if b then .r460800 else .r115200)

/-- R200: a FULL reset; no reply is made, the READY carries the request's tag, a frame in progress and the link rate stay.
R199: a RESET of another scope or of another length is refused, whichever RESET row takes it (log 13). -/
def Obligations.FullReset : Prop :=
  (∀ (s : State) (tag : Byte) (rest : List Request), s.fresh ⟨0x03, tag, [0]⟩ rest →
      ∃ t, exec .resetFull s = .next t ∧ t.AtPowerOn ∧ t.ready = some (.request tag) ∧ t.tx = s.tx
        ∧ t.linkRate = s.linkRate ∧ t.pending = s.pending)
    ∧ ∀ c ∈ [Instr.resetFull, .resetStreams, .resetChannels], ∀ (s : State) (tag : Byte) (rest : List Request),
        (∀ scope : Byte, 2 < scope.toNat → s.fresh ⟨0x03, tag, [scope]⟩ rest →
          exec c s = .next (s.answered ⟨0x03, tag, [scope]⟩ rest .badValue [0]))
        ∧ ∀ payload : List Byte, payload.length ≠ 1 → s.fresh ⟨0x03, tag, payload⟩ rest →
          exec c s = .next (s.answered ⟨0x03, tag, payload⟩ rest .badLength [BitVec.ofNat 8 payload.length])

/-- R39, R42, R67, R71, R86, R88, R113, R116, R183: a STREAMS reset. Each stream that is not OFF, stream 0 first, is stopped:
SYNC_STATE with reason RESET, the STALE raises of its CURRENT channels, and MAP_APPLIED when its pending commit is applied; every
other block stays. With the transmitter free, nothing waiting ahead and a credit, a notice may be sent between the raises
(`RaiseTaken`) or after them, before the reply: which is free (log 27, counted by log 11), and that it is one at most the model's
choice (log 27); in every other state none is. -/
def Obligations.StreamsReset : Prop :=
  ∀ (s : State) (tag : Byte) (rest : List Request), s.fresh ⟨0x03, tag, [1]⟩ rest →
    let stops (i : StreamId) : Bool := (s.syn.get i).mode ≠ .off
    let applies (i : StreamId) : Bool := stops i && (s.stage.get i).pending
    let applied (i : StreamId) (m : List MapEntry) : List MapEntry :=
      if applies i then applyEdits i m (s.stage.get i).edits else m
    let mapAfter (i : StreamId) : List MapEntry := match i with
      | .s0 => applied .s0 s.map
      | .s1 => applied .s1 (applied .s0 s.map)
    let width (c : ChannelId) (ch : Channel) : Nat :=
      if applies ch.config.stream then mapWidth (mapAfter ch.config.stream) c else ch.width
    let goesStale (ch : Channel) : Bool := stops ch.config.stream && decide (ch.data.reported = .current)
    let unsettles (c : ChannelId) (ch : Channel) : Bool := goesStale ch || decide (ch.width ≠ width c ch)
    let raises (i : StreamId) : List Raise :=
      if stops i then
        .syncState i ⟨.off, .strict, .noMajor, none, .normal, .reset⟩
          :: (((List.finRange 128).flatMap fun c => match s.channel c with
            | some ch => match ch.data with
              | .current r => if ch.config.stream = i ∧ ch.settings.noticeSet.getLsbD 3 = true then
                  [.stale c .disarmed r.sequence r.stamp] else []
              | _ => []
            | none => [])
            ++ if applies i then [.mapApplied i (s.stage.get i).edits.length (mapAfter i).length] else [])
      else []
    let raised : State := s.raiseAll (raises .s0 ++ raises .s1)
    ∃ t, exec .resetStreams s = .next t
      ∧ (∀ i, t.syn.get i =
          { s.syn.get i with
            mode := .off
            phase := if stops i then .strict else (s.syn.get i).phase
            armed := 0
            selected := if stops i then none else (s.syn.get i).selected
            polarity := if stops i then .normal else (s.syn.get i).polarity
            verifyCount := if stops i then 0 else (s.syn.get i).verifyCount
            missCount := if stops i then 0 else (s.syn.get i).missCount
            bitsToSync := if stops i then 0 else (s.syn.get i).bitsToSync
            windowTimer := if stops i then none else (s.syn.get i).windowTimer
            idleTimer := if stops i then none else (s.syn.get i).idleTimer
            bitsFlowing := if stops i then false else (s.syn.get i).bitsFlowing
            history := if stops i then 0 else (s.syn.get i).history
            fill := if stops i then 0 else (s.syn.get i).fill
            locksAcquired := 0
            framesProcessed := 0
            framesCoasted := 0
            checkFailures := 0
            lastReason := if stops i then some .reset else (s.syn.get i).lastReason })
      ∧ (∀ i, (t.trk.get i).AtPowerOn)
      ∧ t.map = mapAfter .s1
      ∧ (∀ i, t.stage.get i = if applies i then ⟨[], false, 0⟩ else s.stage.get i)
      ∧ (∀ c, t.channel c = (s.channel c).map fun ch =>
          { ch with
            width := width c ch
            data := match ch.data with
              | .current r => if stops ch.config.stream then .stale .disarmed r else .current r
              | d => d
            staleTimer := if goesStale ch then none else ch.staleTimer
            candidate := if unsettles c ch then none else ch.candidate
            agree := if unsettles c ch then 0 else ch.agree })
      ∧ ((t.notices = raised.notices ∧ t.tx = raised.tx)
          ∨ s.tx = none ∧ s.ready = none ∧ s.replies = [] ∧ 0 < s.notices.credits
            ∧ ∃ u, exec .noticeSend { raised with draws := raised.draws + 1 } = .next u ∧ t.notices = u.notices ∧ t.tx = u.tx)
      ∧ t.notices.mask = s.notices.mask
      ∧ t.profiles = s.profiles ∧ t.rosters = s.rosters ∧ t.poolFree = s.poolFree
      ∧ t.timebase = s.timebase ∧ t.linkRate = s.linkRate ∧ t.rx = s.rx ∧ t.ready = s.ready
      ∧ t.inbound = rest ∧ t.replies = s.replies ++ [[0x83, tag, 0, 1]]
      ∧ t.cache = placeInCache s.cache ⟨tag, 0x03, [0x83, tag, 0, 1]⟩ ∧ t.pending = s.pending

/-- R115: a CHANNELS reset of every bound record; nothing is raised and nothing else changes. -/
def Obligations.ChannelsReset : Prop :=
  ∀ (s : State) (tag : Byte) (rest : List Request), s.fresh ⟨0x03, tag, [2]⟩ rest →
    exec .resetChannels s = .next (State.answered
      { s with
        channels := Vector.ofFn fun c : ChannelId => (s.channel c).map fun ch =>
          { config := ch.config, width := ch.width, settings := ch.settings, data := .noData, nextSeq := 0,
            candidate := none, agree := 0, settled := none, limit := .normal, latches := 0, staleTimer := none,
            queue := ⟨[], 0, true⟩ } }
      ⟨0x03, tag, [2]⟩ rest .ok [2])

/-! ### The host link (R178, R184 to R188, R194 to R196, R198, R202) -/

/-- R198, R201, R202: a microsecond passes, the count wrapping; TIME_GET reports it, and no request but a FULL reset sets it;
PING answers the part's identity and capacities. -/
def Obligations.PingAndTime : Prop :=
  ((∀ s : State, ∃ t, exec .timebaseTick s = .next t ∧ t = { s with timebase := t.timebase }
       ∧ t.timebase.toNat = (s.timebase.toNat + 1) % 2 ^ 48)
     ∧ (∀ (s : State) (tag : Byte) (rest : List Request), s.fresh ⟨0x02, tag, []⟩ rest →
         exec .timeGet s = .next (s.answered ⟨0x02, tag, []⟩ rest .ok (be 6 s.timebase.toNat)))
     ∧ ∀ (c : Instr) (s t : State), c.isRequest = true → c ≠ .resetFull → exec c s = .next t → t.timebase = s.timebase)
    ∧ (∀ (s : State) (tag : Byte) (rest : List Request), s.fresh ⟨0x01, tag, []⟩ rest →
     exec .ping s
       = .next (s.answered ⟨0x01, tag, []⟩ rest .ok [0x21, 0x20, 0x01, 2, 4, 0x02, 0x00, 64, 128, 0x08, 0x00, 4, 32]))

/-- R178, R195, R196: the READY goes first, then the oldest reply, then against a credit the head notice, each framed by R184,
when no frame is in progress; a notice's payload by its kind, as section 10.8 lays it out. A send that is not the transmitter's
choice does not take place, and FRAME_SENT ends the frame: the model's choices (log 2, 6); the bytes of an absent previous value
are free (log 10), and a counter of the model's own counts the free values (log 11). -/
def Obligations.TransmitterSends : Prop :=
  (∀ s : State,
     exec .sendReady s = .next (match s.tx, s.ready with
       | none, some .powerOn => { s with ready := none, tx := some (linkFrame [0x7F, 0, 0, 0, 0x21, 0x20, 0x01]) }
       | none, some (.request tag) => { s with ready := none, tx := some (linkFrame [0x7F, 1, 1, tag, 0x21, 0x20, 0x01]) }
       | _, _ => s)
     ∧ exec .sendReply s = .next (match s.tx, s.ready, s.replies with
       | none, none, body :: rest => { s with replies := rest, tx := some (linkFrame body) }
       | _, _, _ => s)
     ∧ exec .frameSent s = .next { s with tx := none })
    ∧ (∀ s : State, ∃ draw, exec .noticeSend s = .next (match s.tx, s.ready, s.replies, s.notices.queue with
     | none, none, [], n :: rest =>
       if 0 < s.notices.credits then
         { s with
           notices := ⟨rest, s.notices.mask, s.notices.credits - 1, 0, s.notices.nextSeq + 1⟩
           tx := some (linkFrame (byte (0x40 + n.content.kind.index) ++ be 2 s.notices.nextSeq.toNat
             ++ be 2 s.notices.dropped ++ byte n.coalesced ++ n.content.bytes draw))
           draws := s.draws + 1 }
       else s
     | _, _, _, _ => s))
    ∧ (let flags (q : Quality) : Byte := BitVec.ofNat 8 (128 * q.parity.toNat + 64 * q.checkFail.toNat + 32 * q.coasted.toNat
         + 16 * q.idPredicted.toNat + 8 * q.inverted.toNat)
       let cause : LimitCause → Byte
         | .settle => 0
         | .set => 1
       let stale : StaleReason → Byte
         | .timeout => 0
         | .lockLost => 1
         | .majorLost => 2
         | .disarmed => 3
       let limit : LimitState → Nat
         | .normal => 0
         | .low => 1
         | .high => 2
       let state : ReportedState → Nat
         | .noData => 0
         | .current => 1
         | .stale => 2
         | .unbound => 3
       ([.syncState, .sample, .settled, .limit, .stale, .queueLevel, .queueOverflow, .roster, .mapApplied]
         : List NoticeKind).map NoticeKind.index = List.range 9
       ∧ ∀ draw : Nat,
         (∀ (i : StreamId) (r : SyncReport), (Raise.syncState i r).bytes draw =
           [BitVec.ofNat 8 i.index,
             BitVec.ofNat 8 (([.off, .hunt, .verify, .locked, .coast, .stopped] : List SyncMode).idxOf r.mode),
             match r.phase with
             | .strict => 0
             | .relaxed => 1,
             match r.major with
             | .noMajor => 0
             | .majorSearch => 1
             | .majorLocked => 2,
             match r.selected with
             | some k => BitVec.ofNat 8 k.val
             | none => 0xFF,
             match r.polarity with
             | .normal => 0
             | .inverted => 1,
             BitVec.ofNat 8 (([.armed, .disarmed, .verified, .miss, .recovered, .misses, .idle, .windowRelaxed, .windowStopped,
               .majorGained, .majorLost, .reset] : List SyncReason).idxOf r.reason)])
         ∧ (∀ (c : ChannelId) (r : Sample), (Raise.sample c r).bytes draw =
           BitVec.ofNat 8 c.val :: (be 4 r.sequence.toNat ++ be 4 r.value.toNat ++ [flags r.flags, r.frameId]
             ++ be 4 r.majorCount.toNat ++ be 6 r.stamp.toNat))
         ∧ (∀ (c : ChannelId) (new : Settled) (previous sequence : BitVec 32) (stamp : Time),
           (Raise.settled c new (some previous) sequence stamp).bytes draw =
             BitVec.ofNat 8 c.val :: (be 4 new.value.toNat ++ [BitVec.ofNat 8 new.width] ++ be 4 previous.toNat ++ [1]
               ++ be 4 sequence.toNat ++ be 6 stamp.toNat)
           ∧ ∃ free : List Byte, free.length = 4 ∧ (Raise.settled c new none sequence stamp).bytes draw =
             BitVec.ofNat 8 c.val :: (be 4 new.value.toNat ++ [BitVec.ofNat 8 new.width] ++ free ++ [0]
               ++ be 4 sequence.toNat ++ be 6 stamp.toNat))
         ∧ (∀ (c : ChannelId) (old new : LimitState) (v : Settled) (why : LimitCause), (Raise.limit c old new v why).bytes draw =
           [BitVec.ofNat 8 c.val, BitVec.ofNat 8 (limit old), BitVec.ofNat 8 (limit new)] ++ be 4 v.value.toNat
             ++ [BitVec.ofNat 8 v.width, cause why])
         ∧ (∀ (c : ChannelId) (why : StaleReason) (sequence : BitVec 32) (stamp : Time),
           (Raise.stale c why sequence stamp).bytes draw =
             [BitVec.ofNat 8 c.val, stale why] ++ be 4 sequence.toNat ++ be 6 stamp.toNat)
         ∧ (∀ (c : ChannelId) (fill watermark : Nat) (sequence : BitVec 32), (Raise.queueLevel c fill watermark sequence).bytes draw =
           BitVec.ofNat 8 c.val :: (be 2 fill ++ be 2 watermark ++ be 4 sequence.toNat))
         ∧ (∀ (c : ChannelId) (policy : OverflowPolicy) (lost : BitVec 32) (dropped fill : Nat),
           (Raise.queueOverflow c policy lost dropped fill).bytes draw =
             [BitVec.ofNat 8 c.val, match policy with
               | .keepOldest => 0
               | .keepNewest => 1] ++ be 4 lost.toNat ++ be 2 dropped ++ be 2 fill)
         ∧ (∀ (r : RosterId) (i : StreamId) (count : BitVec 32) (entries : List RosterEntry),
           (Raise.roster r i count entries).bytes draw =
             [BitVec.ofNat 8 r.val, BitVec.ofNat 8 i.index] ++ be 4 count.toNat ++ [BitVec.ofNat 8 entries.length]
               ++ entries.flatMap fun e =>
                 [BitVec.ofNat 8 e.channel.val,
                     BitVec.ofNat 8 (64 * state e.state + 16 * limit e.limit + 8 * e.settledPresent.toNat)]
                   ++ be 4 e.lastValue.toNat ++ [flags e.lastFlags] ++ be 2 e.lastSequence.toNat ++ be 4 e.settledValue.toNat)
         ∧ ∀ (i : StreamId) (edits committed : Nat), (Raise.mapApplied i edits committed).bytes draw =
           [BitVec.ofNat 8 i.index, BitVec.ofNat 8 edits] ++ be 2 committed)

/-- R185, R187, R188: a byte with a valid stop bit, by the receiver's state (the discards are `BadFramesTakenAgain`); a byte with
a low stop bit and a gap expiry discard the partial frame. An expiry that is not due does not take place (log 2, 3). -/
def Obligations.ReceiverTakesBytes : Prop :=
  (∀ (s : State) (b : Byte), s.rx.legal →
     (s.rx.mode = .seek →
       exec (.byteArrival ⟨b, true⟩) s
         = .next (if b = 0xD5 then { s with rx := ⟨.length, [0xD5], 0, some s.timebase⟩ } else s))
     ∧ (s.rx.mode = .length → s.rx.buffer = [0xD5] →
       exec (.byteArrival ⟨b, true⟩) s = .next { s with rx := ⟨.length, [0xD5, b], 0, some s.timebase⟩ })
     ∧ (∀ hi : Byte, s.rx.mode = .length → s.rx.buffer = [0xD5, hi] → 2 ≤ hi.toNat * 256 + b.toNat →
       hi.toNat * 256 + b.toNat ≤ 250 →
       exec (.byteArrival ⟨b, true⟩) s
         = .next { s with rx := ⟨.body, [0xD5, hi, b], hi.toNat * 256 + b.toNat, some s.timebase⟩ })
     ∧ (∀ n, s.rx.mode = .body → s.rx.buffer.length = 3 + n →
       exec (.byteArrival ⟨b, true⟩) s
         = .next { s with
             rx := ⟨if n + 1 = s.rx.length then .check else .body, s.rx.buffer ++ [b], s.rx.length, some s.timebase⟩ })
     ∧ (s.rx.mode = .check → s.rx.buffer.length = 3 + s.rx.length →
       exec (.byteArrival ⟨b, true⟩) s
         = .next { s with rx := ⟨.check, s.rx.buffer ++ [b], s.rx.length, some s.timebase⟩ })
     ∧ ∀ (hi lo kind tag c : Byte) (payload : List Byte), s.rx.mode = .check →
       s.rx.buffer = 0xD5 :: hi :: lo :: kind :: tag :: (payload ++ [c]) → s.rx.length = payload.length + 2 →
       (linkCheck (hi :: lo :: kind :: tag :: payload)).toNat = c.toNat * 256 + b.toNat →
       exec (.byteArrival ⟨b, true⟩) s
         = .next { s with
             rx := ⟨.seek, [], 0, none⟩
             inbound := if s.inbound.length < 4 then s.inbound ++ [⟨kind, tag, payload⟩] else s.inbound })
    ∧ (∀ (s : State) (b : Byte), s.rx.legal →
     exec (.byteArrival ⟨b, false⟩) s = .next { s with rx := ⟨.seek, [], 0, none⟩ }
     ∧ exec .gapTimerExpiry s = .next (match s.rx.gapTimer with
       | some start => if 10000 ≤ (s.timebase - start).toNat then { s with rx := ⟨.seek, [], 0, none⟩ } else s
       | none => s))

/-- R184, R185, R188: the frame of a body, laid out, with the check's register step, its start and the values R184 gives; and
what a sender frames, the receiver hands over: the frame of every request body, received from SEEK, puts exactly that request at
the tail of the inbound queue, or nothing when 4 wait. That a frame arrives as one command is the model's choice (log 5). -/
def Obligations.FramesAreReceived : Prop :=
  (∀ (s : State) (kind tag : Byte) (payload : List Byte), s.rx.legal → s.rx.mode = .seek → payload.length ≤ 248 →
      exec (.frameReceived ((linkFrame (kind :: tag :: payload)).map fun b => ⟨b, true⟩)) s
        = .next { s with
            inbound := if s.inbound.length < 4 then s.inbound ++ [⟨kind, tag, payload⟩] else s.inbound })
    ∧ (linkCheck [] = 0xFFFF
      ∧ (∀ (covered : List Byte) (b : Byte), linkCheck (covered ++ [b]) = ([7, 6, 5, 4, 3, 2, 1, 0] : List Nat).foldl
        (fun (reg : BitVec 16) n => if reg.getLsbD 15 = b.getLsbD n then reg <<< 1 else (reg <<< 1) ^^^ 0x1021) (linkCheck covered))
      ∧ linkCheck [0x31, 0x32, 0x33, 0x34, 0x35, 0x36, 0x37, 0x38, 0x39] = 0x29B1)
    ∧ (∀ body : List Byte,
      let hi : Byte := BitVec.ofNat 8 (body.length / 256)
      let lo : Byte := BitVec.ofNat 8 body.length
      let check := linkCheck (hi :: lo :: body)
      linkFrame body = 0xD5 :: hi :: lo :: (body ++ [(check >>> 8).setWidth 8, check.setWidth 8]))
    ∧ linkFrame [0x01, 0x05] = [0xD5, 0x00, 0x02, 0x01, 0x05, 0x89, 0x34]
    ∧ ∀ n v : Nat, be 0 v = [] ∧ be (n + 1) v = BitVec.ofNat 8 (v / 256 ^ n) :: be n v

/-- R186: the byte that ends a bad frame leaves the part as if the bytes stored after its start byte, and that byte, had
just arrived in SEEK. The bound on the model's recursion is never reached (log 23). -/
def Obligations.BadFramesTakenAgain : Prop :=
  (∀ (s : State) (b : Byte), s.rx.legal →
      (∃ hi, s.rx.mode = .length ∧ s.rx.buffer = [0xD5, hi]
          ∧ ¬ (2 ≤ hi.toNat * 256 + b.toNat ∧ hi.toNat * 256 + b.toNat ≤ 250))
        ∨ (s.rx.mode = .check ∧ s.rx.buffer.length = 4 + s.rx.length
          ∧ readBE ((s.rx.buffer ++ [b]).drop (3 + s.rx.length))
            ≠ (linkCheck ((s.rx.buffer.drop 1).take (2 + s.rx.length))).toNat) →
      exec (.byteArrival ⟨b, true⟩) s
        = exec (.frameReceived ((s.rx.buffer.drop 1 ++ [b]).map fun x => ⟨x, true⟩))
            { s with rx := ⟨.seek, [], 0, none⟩ })
    ∧ ∀ (r : Receiver) (b : Byte) (n : Nat), r.shaped → r.bound ≤ n →
      Receiver.takeBytes n r [b] = Receiver.takeBytes r.bound r [b]

/-! ### The executor (R189 to R194, R201) -/

/-- R189: nothing is taken from an empty inbound queue or while 4 replies wait; a row does not take another row's request
(the model's choice, log 1 and 2), and every request is one some row takes. -/
def Obligations.ExecutorWaits : Prop :=
  (∀ (c : Instr) (s : State), c.isRequest = true →
      (s.inbound = [] ∨ 4 ≤ s.replies.length ∨ ∃ q rest, s.inbound = q :: rest ∧ takenBy c q = false) →
      exec c s = .next s)
    ∧ ∀ q : Request, ∃ c : Instr, c.isRequest = true ∧ takenBy c q = true

/-- R190, R194: a duplicate is answered with a copy of the cached reply, the cache and every block as they were. A reply placed
in the cache is the newest entry and the only one with its tag; the others keep their order, and one is lost only when 4 of
other tags are held, the oldest. -/
def Obligations.DuplicatesAnswered : Prop :=
  (∀ (c : Instr) (s : State) (q : Request) (rest : List Request) (e : CacheEntry), c.isRequest = true → takenBy c q = true →
     s.head q rest → e ∈ s.cache → e.tag = q.tag → e.kind = q.kind → s.LinkLegal →
     exec c s = .next { s with inbound := rest, replies := s.replies ++ [e.body] })
    ∧ (∀ (cache : List CacheEntry) (e : CacheEntry), cache.length ≤ 4 → cache.Pairwise (fun a b => a.tag ≠ b.tag) →
     ∃ kept, placeInCache cache e = kept ++ [e] ∧ kept.Sublist cache ∧ kept.length ≤ 3
       ∧ (∀ x ∈ kept, x.tag ≠ e.tag)
       ∧ ∀ x ∈ cache, x.tag ≠ e.tag → x ∉ kept → cache.length = 4 ∧ cache.head? = some x ∧ ∀ y ∈ cache, y.tag ≠ e.tag)

/-- R192: a kind byte that names no request is answered BAD_KIND, a payload of another length than section 10.8 gives for its
kind BAD_LENGTH; nothing else changes. -/
def Obligations.LinkChecksRefuse : Prop :=
  (∀ (s : State) (q : Request) (rest : List Request), s.fresh q rest →
      q.kind.toNat ∉ [0x01, 0x02, 0x03, 0x08, 0x09, 0x0A, 0x10, 0x11, 0x12, 0x18, 0x19, 0x1A, 0x1B, 0x1C, 0x20, 0x21, 0x22,
        0x23, 0x24, 0x28, 0x30, 0x31, 0x32, 0x33, 0x38, 0x39] →
      exec .badKind s = .next (s.answered q rest .badKind [q.kind]))
    ∧ (∀ k : Byte, replyKind k = if 1 ≤ k.toNat ∧ k.toNat ≤ 0x3F then k + 0x80 else 0xC0)
    ∧ ∀ (c : Instr) (s : State) (q : Request) (rest : List Request), c.isRequest = true → takenBy c q = true → c ≠ .badKind →
      s.fresh q rest →
      (∃ row ∈ ([(0x01, 0, 0), (0x02, 0, 0), (0x03, 1, 1), (0x08, 28, 28), (0x09, 1, 1), (0x0A, 1, 1), (0x10, 6, 6), (0x11, 1, 1),
          (0x12, 1, 1), (0x18, 12, 12), (0x19, 4, 4), (0x1A, 1, 1), (0x1B, 1, 1), (0x1C, 2, 2), (0x20, 9, 9), (0x21, 1, 1),
          (0x22, 20, 20), (0x23, 1, 1), (0x24, 3, 3), (0x28, 2, 2), (0x30, 1, 17), (0x31, 1, 1), (0x32, 3, 3), (0x33, 1, 1),
          (0x38, 2, 2), (0x39, 1, 1)] : List (Nat × Nat × Nat)),
        q.kind.toNat = row.1 ∧ ¬ (row.2.1 ≤ q.payload.length ∧ q.payload.length ≤ row.2.2)) →
      exec c s = .next (s.answered q rest .badLength [BitVec.ofNat 8 q.payload.length])

/-- The invariants below hold in the reset state. -/
def Obligations.InvariantsAtReset : Prop :=
  State.reset.LinkLegal ∧ State.reset.notices.Legal ∧ State.reset.ChannelsLegal ∧ (∀ r, (State.reset.roster r).Legal)
    ∧ State.reset.StreamsLegal ∧ State.reset.MapLegal

/-- R185, R187, R188, R194, R195: the receiver's shape, the bounds of the link's queues and the cache's distinct tags are
kept by every step. -/
def Obligations.LinkKept : Prop := ∀ s t : State, s.LinkLegal → step s = .next t → t.LinkLegal

/-! ### Profiles (R2 to R5, R9 to R14) -/

/-- R9, R10, R12: PROFILE_LOAD refuses the first field, in index order, that breaks its range or its dependency, then a slot
in use, and otherwise stores all the fields at once, fields 6 and 7 absent when M = 1. -/
def Obligations.ProfileLoad : Prop :=
  ∀ (s : State) (tag : Byte) (rest : List Request) (f : LoadFields), f.fits → s.fresh ⟨0x08, tag, f.bytes⟩ rest →
    (∀ n : Nat, f.Breaks n → (∀ m < n, ¬ f.Breaks m) →
      exec .profileLoad s = .next (s.answered ⟨0x08, tag, f.bytes⟩ rest .badValue [BitVec.ofNat 8 n]))
    ∧ ∀ k : Slot, (∀ n, ¬ f.Breaks n) → f.slot = k.val →
      exec .profileLoad s = .next (if s.slotInUse k then s.answered ⟨0x08, tag, f.bytes⟩ rest .inUse [] else State.answered
        { s with
          profiles := s.profiles.set k.val (some
            { wordLength := f.wordLength, syncLength := f.syncLength, syncPattern := BitVec.ofNat 64 f.pattern,
              frameWords := f.frameWords, majorLength := f.majorLength,
              idPosition := if f.majorLength = 1 then none else some f.idPosition,
              idWidth := if f.majorLength = 1 then none else some f.idWidth,
              idBase := f.idBase, idDirection := if f.idDirection = 0 then .up else .down,
              parity := if f.parity = 0 then .noParity else if f.parity = 1 then .odd else .even,
              check := if f.check = 0 then .noCheck else .crc16,
              huntErrors := f.hunt, relaxedErrors := f.relaxed, lockErrors := f.lock, verifyFrames := f.verify,
              coastFrames := f.coast, acceptInverted := decide (f.inverted = 1) }) }
        ⟨0x08, tag, f.bytes⟩ rest .ok [])

/-- R13, R14: PROFILE_DROP empties a slot that is not in use; PROFILE_READ reports the slot, its fields, 0 when EMPTY, and
the three claims, and changes nothing. -/
def Obligations.ProfileDropAndRead : Prop :=
  ∀ (s : State) (tag slot : Byte) (rest : List Request),
    (s.fresh ⟨0x09, tag, [slot]⟩ rest →
      (3 < slot.toNat → exec .profileDrop s = .next (s.answered ⟨0x09, tag, [slot]⟩ rest .badValue [0]))
      ∧ ∀ k : Slot, slot.toNat = k.val →
        exec .profileDrop s = .next (if s.slotInUse k then s.answered ⟨0x09, tag, [slot]⟩ rest .inUse []
          else State.answered { s with profiles := s.profiles.set k.val none } ⟨0x09, tag, [slot]⟩ rest .ok []))
    ∧ (s.fresh ⟨0x0A, tag, [slot]⟩ rest →
      (3 < slot.toNat → exec .profileRead s = .next (s.answered ⟨0x0A, tag, [slot]⟩ rest .badValue [0]))
      ∧ ∀ k : Slot, slot.toNat = k.val →
        exec .profileRead s = .next (s.answered ⟨0x0A, tag, [slot]⟩ rest .ok
          ((match s.profile k with
            | some p => 1 :: p.bytes
            | none => List.replicate 28 0)
            ++ [BitVec.ofNat 8 ((s.armedBy k .s0).toNat + 2 * (s.armedBy k .s1).toNat + 4 * (s.mappedSlot k).toNat)])))

/-- R11: what a slot in use is, which R14's three claims are, and that only a PROFILE_LOAD, a PROFILE_DROP, a FULL reset and
power-on change a slot, the first two never one in use; what the last two do is `FullReset` and `PowerOn`. A bit is a chain of the
requests that the executor takes inside it (R147, log 26): outside them it leaves every slot, and all that makes a slot in use, as
they were, but for the pending commit of the stream that its end may apply; a request inside it changes a slot only as a
PROFILE_LOAD or PROFILE_DROP of it, in the state it is taken in not in use. -/
def Obligations.UsedSlotsKept : Prop :=
  (∀ (s : State) (k : Slot), s.slotInUse k = (s.armedBy k .s0 || s.armedBy k .s1 || s.mappedSlot k))
    ∧ (∀ (s : State) (k : Slot) (i : StreamId),
      s.armedBy k i = true ↔ (s.syn.get i).armed.getLsbD k.val = true ∧ (s.syn.get i).mode ≠ .off)
    ∧ (∀ (s : State) (k : Slot), s.mappedSlot k = true ↔ (∃ e ∈ s.map, e.profile = k)
      ∨ ∃ i e, (s.stage.get i).pending = true ∧ Edit.add e ∈ (s.stage.get i).edits ∧ e.profile = k)
    ∧ (∀ (c : Instr) (s t : State) (k : Slot), exec c s = .next t → c ≠ .resetFull → (∀ x, c ≠ .powerOnReset x) →
      (∀ i b, c ≠ .bitArrival i b) → t.profile k ≠ s.profile k →
        (c = .profileLoad ∨ c = .profileDrop) ∧ s.slotInUse k = false)
    ∧ ∀ (i : StreamId) (b : Bool) (s t : State), exec (.bitArrival i b) s = .next t →
      let kept (u v : State) : Prop :=
        v.profiles = u.profiles ∧ v.inbound = u.inbound ∧ v.replies = u.replies ∧ v.cache = u.cache
        ∧ v.timebase = u.timebase ∧ (∀ c, (v.channel c).map Channel.config = (u.channel c).map Channel.config)
        ∧ ∀ j, (v.syn.get j).armed = (u.syn.get j).armed ∧ ((v.syn.get j).mode = .off ↔ (u.syn.get j).mode = .off)
          ∧ (j ≠ i → v.syn.get j = u.syn.get j ∧ v.trk.get j = u.trk.get j)
      let sameMap (u v : State) : Prop := v.map = u.map ∧ v.stage = u.stage
      let applied (u v : State) : Prop := (u.stage.get i).pending = true
        ∧ v.map = applyEdits i u.map (u.stage.get i).edits ∧ v.stage = u.stage.set i .reset
      ∃ n ≤ s.inbound.length, ∃ before after : ℕ → State,
        kept s (before 0) ∧ sameMap s (before 0)
        ∧ (∀ m < n, (before m).TurnTo i (after m) ∧ kept (after m) (before (m + 1)) ∧ sameMap (after m) (before (m + 1))
          ∧ (before m).syn.get i = t.syn.get i ∧ ((before m).trk.get i).major = (t.trk.get i).major)
        ∧ kept (before n) t ∧ (sameMap (before n) t ∨ applied (before n) t)
        ∧ ∀ m < n, ∀ k, (after m).profile k ≠ (before m).profile k →
          (before m).slotInUse k = false ∧ ∃ q rest, (before m).inbound = q :: rest ∧ (q.kind = 0x08 ∨ q.kind = 0x09)
            ∧ q.payload.head? = some (BitVec.ofNat 8 k.val)

/-- R203, section 10.8: the fields of every PROFILE_LOAD payload are read back as they were laid out, and a slot filled by
an accepted load lays its fields out as they came, fields 6 and 7 reading 0 when M = 1 (R14). -/
def Obligations.ProfileReadsBack : Prop :=
  ∀ f : LoadFields, f.fits →
    f.bytes.length = 28 ∧ readLoad f.bytes = f
    ∧ ((∀ n, ¬ f.Breaks n) → byte f.slot ++ f.profile.bytes =
      { f with
        idPosition := if f.majorLength = 1 then 0 else f.idPosition
        idWidth := if f.majorLength = 1 then 0 else f.idWidth }.bytes)

/-- R5: the successor of an ID takes the M IDs of a major frame in turn, from the first to the last and back to the
first. -/
def Obligations.SuccessorsCycle : Prop :=
  ∀ p : Profile, 1 ≤ p.majorLength →
    (∀ i, p.idInRange i = true ↔ ∃ n < p.majorLength, i = p.idBase + n)
    ∧ (∀ n < p.majorLength,
      p.idDirection = .up → p.succId (p.idBase + n) = if n + 1 = p.majorLength then p.idBase else p.idBase + n + 1)
    ∧ (∀ n < p.majorLength,
      p.idDirection = .down → p.succId (p.idBase + n) = if n = 0 then p.idBase + p.majorLength - 1 else p.idBase + n - 1)
    ∧ p.lastMinorId = (match p.idDirection with
      | .up => p.idBase + p.majorLength - 1
      | .down => p.idBase)
    ∧ ∀ i, p.idInRange i = true → p.idInRange (p.succId i) = true ∧ p.succId^[p.majorLength] i = i
      ∧ ∃ n, p.succId^[n] i = p.lastMinorId

/-! ### Streams: the requests (R34 to R37, R40) -/

/-- R34 to R36: STREAM_ARM, its checks in order, then the stream's record anew and a SYNC_STATE with reason ARMED. STREAM_DISARM
of a stream that is not OFF: OFF, its tracker NONE, SYNC_STATE, then the extraction stop (`ExtractionStops`), the reply
reporting the state before. That the abandoned frame is no longer extracting is the model's inference (log 15). -/
def Obligations.StreamArmDisarm : Prop :=
  (∀ (s : State) (tag stream set : Byte) (window idle : BitVec 16) (rest : List Request),
     let q : Request := ⟨0x10, tag, stream :: set :: (be 2 window.toNat ++ be 2 idle.toNat)⟩
     s.fresh q rest →
     (1 < stream.toNat → exec .streamArm s = .next (s.answered q rest .badValue [0]))
     ∧ ∀ i : StreamId, stream.toNat = i.index →
       exec .streamArm s = .next (
         if set = 0 ∨ 15 < set.toNat then s.answered q rest .badValue [1]
         else if idle = 0 ∨ 1000 < idle.toNat then s.answered q rest .badValue [3]
         else if ∃ k : Slot, set.getLsbD k.val = true ∧ s.profile k = none then s.answered q rest .noSuch []
         else if (s.syn.get i).mode = .off ∨ (s.syn.get i).mode = .stopped then State.answered
           (State.raiseAll { s with
             syn := s.syn.set i
               { mode := .hunt, phase := .strict, armed := set.setWidth 4, selected := none, polarity := .normal,
                 verifyCount := 0, missCount := 0, bitsToSync := 0, frameTime := none, window := window.toNat,
                 windowTimer := if window = 0 then none else some s.timebase, idleTimeout := idle.toNat,
                 idleTimer := some s.timebase, bitsFlowing := false, history := 0, fill := 0, locksAcquired := 0,
                 framesProcessed := 0, framesCoasted := 0, checkFailures := 0, lastReason := some .armed } }
             [.syncState i ⟨.hunt, .strict, (s.trk.get i).major, none, .normal, .armed⟩])
           q rest .ok []
         else s.answered q rest .wrongState []))
    ∧ (∀ (s : State) (tag stream : Byte) (rest : List Request), s.fresh ⟨0x11, tag, [stream]⟩ rest →
     (1 < stream.toNat → exec .streamDisarm s = .next (s.answered ⟨0x11, tag, [stream]⟩ rest .badValue [0]))
     ∧ ∀ i : StreamId, stream.toNat = i.index →
       exec .streamDisarm s = .next (if (s.syn.get i).mode = .off then s.answered ⟨0x11, tag, [stream]⟩ rest .ok [0]
         else State.answered (State.extractionStop
           (State.raiseAll { s with
             syn := s.syn.set i
               { s.syn.get i with
                 mode := .off, selected := none, polarity := .normal, phase := .strict, verifyCount := 0, missCount := 0,
                 bitsToSync := 0, windowTimer := none, idleTimer := none, bitsFlowing := false, history := 0, fill := 0,
                 lastReason := some .disarmed }
             trk := s.trk.set i
               { s.trk.get i with
                 major := .noMajor, profile := none, previousId := none, frameId := none, mismatch := 0,
                 extracting := false } }
             [.syncState i ⟨.off, .strict, .noMajor, none, .normal, .disarmed⟩]) i .disarmed)
           ⟨0x11, tag, [stream]⟩ rest .ok [BitVec.ofNat 8 (s.syn.get i).mode.code]))

/-- R64, R112, R113, R85, R86, R88, R89: an extraction stop. The lists are emptied, the stream's CURRENT channels go STALE,
a pending commit is applied with the widths it gives, and the STALE raises, in channel order, precede MAP_APPLIED. -/
def Obligations.ExtractionStops : Prop :=
  ∀ (s : State) (i : StreamId) (why : StaleReason),
    let pending := (s.stage.get i).pending
    let map := if pending then applyEdits i s.map (s.stage.get i).edits else s.map
    let stale (ch : Channel) : Channel := match ch.data with
      | .current r => { ch with data := .stale why r, staleTimer := none, candidate := none, agree := 0 }
      | _ => ch
    let resized (c : ChannelId) (ch : Channel) : Channel :=
      if pending = true ∧ ch.width ≠ mapWidth map c then { ch with width := mapWidth map c, candidate := none, agree := 0 }
      else ch
    s.extractionStop i why = State.raiseAll
      { s with
        trk := s.trk.set i { s.trk.get i with assembly := [], staging := [] }
        map := map
        stage := if pending then s.stage.set i ⟨[], false, 0⟩ else s.stage
        channels := Vector.ofFn fun c : ChannelId => (s.channel c).map fun ch =>
          if ch.config.stream = i then resized c (stale ch) else ch }
        (((List.finRange 128).flatMap fun c => match s.channel c with
          | some ch => match ch.data with
            | .current r => if ch.config.stream = i ∧ ch.settings.noticeSet.getLsbD 3 = true then
                [.stale c why r.sequence r.stamp] else []
            | _ => []
          | none => []) ++ if pending then [.mapApplied i (s.stage.get i).edits.length map.length] else [])

/-- R37, section 10.8: STREAM_STATUS reports the records as they stand and changes nothing; the frame time's bytes are free
when it is none (log 10), and a counter of the model's own counts the free value (log 11). -/
def Obligations.StreamStatus : Prop :=
  ∀ (s : State) (tag stream : Byte) (rest : List Request), s.fresh ⟨0x12, tag, [stream]⟩ rest →
    (1 < stream.toNat → exec .streamStatus s = .next (s.answered ⟨0x12, tag, [stream]⟩ rest .badValue [0]))
    ∧ ∀ i : StreamId, stream.toNat = i.index →
      let y := s.syn.get i
      let t := s.trk.get i
      ∃ free : List Byte, free.length = 6 ∧
        exec .streamStatus s = .next (State.answered { s with draws := s.draws + 1 } ⟨0x12, tag, [stream]⟩ rest .ok
          ([BitVec.ofNat 8 y.mode.code, BitVec.ofNat 8 y.phase.code, y.armed.setWidth 8,
              BitVec.ofNat 8 ((y.selected.map Fin.val).getD 0xFF), BitVec.ofNat 8 y.polarity.code,
              BitVec.ofNat 8 y.verifyCount, BitVec.ofNat 8 y.missCount]
            ++ be 2 y.window
            ++ (match y.windowTimer with
              | none => [0, 0, 0]
              | some start => 1 :: be 2 ((y.window * 1000 - (s.timebase - start).toNat) / 1000))
            ++ be 2 y.idleTimeout ++ [if y.bitsFlowing then 1 else 0]
            ++ be 4 y.locksAcquired.toNat ++ be 4 y.framesProcessed.toNat ++ be 4 y.framesCoasted.toNat
            ++ be 4 y.checkFailures.toNat
            ++ (match y.frameTime with
              | none => 0 :: free
              | some time => 1 :: be 6 time.toNat)
            ++ [BitVec.ofNat 8 ((y.lastReason.map SyncReason.code).getD 0xFF), BitVec.ofNat 8 t.major.code]
            ++ be 2 (t.lastId.getD 0xFFFF) ++ be 4 t.majorCount.toNat))

/-! ### Streams: bits, search, verification and lock (R15, R18 to R26, R44, R45) -/

/-- R15, R18, R20: a bit at a stream. OFF ignores it, STOPPED records it, and HUNT records it and selects the lowest armed slot
that matches, or none; a comparison counts the positions at which the most recent L bits differ from the pattern, the oldest
against its first bit. -/
def Obligations.BitSearched : Prop :=
  (∀ (s : State) (i : StreamId) (bit : Bool),
     let y := s.syn.get i
     let recorded : Syn :=
       { y with
         history := (y.history <<< 1) ||| (if bit then 1 else 0)
         fill := min (y.fill + 1) 64, idleTimer := some s.timebase, bitsFlowing := true }
     (y.mode = .off → exec (.bitArrival i bit) s = .next s)
     ∧ (y.mode = .stopped → exec (.bitArrival i bit) s = .next { s with syn := s.syn.set i recorded })
     ∧ (y.mode = .hunt →
       (∀ (k : Slot) (p : Profile) (pol : Polarity), y.armed.getLsbD k.val = true → s.profile k = some p → ¬ recorded.hits p pol) →
       exec (.bitArrival i bit) s = .next { s with syn := s.syn.set i recorded })
     ∧ (∀ (k : Slot) (p : Profile) (pol : Polarity), y.mode = .hunt → y.armed.getLsbD k.val = true → s.profile k = some p → recorded.hits p pol →
       (∀ (j : Slot) (q : Profile) (pol' : Polarity), j < k → y.armed.getLsbD j.val = true → s.profile j = some q → ¬ recorded.hits q pol') →
       exec (.bitArrival i bit) s = .next { s with
         syn := s.syn.set i
           { recorded with
             mode := .verify, selected := some k, polarity := pol, verifyCount := 0,
             bitsToSync := p.frameWords * p.wordLength, frameTime := some s.timebase } }))
    ∧ (∀ (p : Profile) (received : BitVec 64), differences p received =
     ((List.range p.syncLength).filter fun n => received.getLsbD n != p.syncPattern.getLsbD n).length)

/-- R19, R45, R47: a bit before the expected sync position lowers the count; while lock is held and the next sync pattern
has not begun, the corrected bit joins the tracker's word, and the bit that completes a word is that word's work. -/
def Obligations.BitBeforePosition : Prop :=
  ∀ (s : State) (i : StreamId) (bit : Bool) (k : Slot) (p : Profile),
    let y := s.syn.get i
    let t := s.trk.get i
    y.mode = .verify ∨ y.mode = .locked ∨ y.mode = .coast → y.selected = some k → s.profile k = some p →
    1 < y.bitsToSync →
    let counted : State :=
      { s with
        syn := s.syn.set i
          { y with
            history := (y.history <<< 1) ||| (if bit then 1 else 0)
            fill := min (y.fill + 1) 64, idleTimer := some s.timebase, bitsFlowing := true
            bitsToSync := y.bitsToSync - 1 } }
    let corrected : Bool := bit != decide (y.polarity = .inverted)
    let taken : Tracker :=
      { t with
        word := (t.word <<< 1) ||| (if corrected then 1 else 0)
        wordBits := t.wordBits + 1
        checkReg :=
          if p.check = .crc16 ∧ t.wordPos < p.frameWords then
            (t.checkReg <<< 1) ^^^ (if t.checkReg.msb != corrected then 0x8005 else 0)
          else t.checkReg }
    (y.mode = .verify ∨ y.bitsToSync ≤ p.syncLength → exec (.bitArrival i bit) s = .next counted)
    ∧ (y.mode ≠ .verify → p.syncLength < y.bitsToSync → t.profile = some k →
      (t.wordBits + 1 < p.wordLength →
        exec (.bitArrival i bit) s = .next { counted with trk := s.trk.set i taken })
      ∧ (p.wordLength ≤ t.wordBits + 1 →
        exec (.bitArrival i bit) s = .next (State.wordComplete { counted with trk := s.trk.set i taken } i k p)))

/-- R21, R22, R23, R48: the expected sync position in VERIFY. A miss returns to HUNT, a match counts, and the match that
reaches verify_frames gains lock and begins the first frame. That the verify count keeps its value while lock is held is
the model's inference (log 25). -/
def Obligations.VerifyPosition : Prop :=
  ∀ (s : State) (i : StreamId) (bit : Bool) (k : Slot) (p : Profile),
    let y := s.syn.get i
    let t := s.trk.get i
    y.mode = .verify → y.selected = some k → s.profile k = some p → y.bitsToSync = 1 →
    let recorded : Syn :=
      { y with
        history := (y.history <<< 1) ||| (if bit then 1 else 0)
        fill := min (y.fill + 1) 64, idleTimer := some s.timebase, bitsFlowing := true, frameTime := some s.timebase }
    let errors := differences p (if y.polarity = .inverted then ~~~recorded.history else recorded.history)
    let gained : Tracker :=
      { t with
        profile := some k, polarity := y.polarity, mismatch := 0, lastId := none, frameId := none, assembly := [],
        staging := []
        major := if p.majorLength = 1 then .majorLocked else .majorSearch
        previousId := if p.majorLength = 1 then some p.idBase else none
        majorCount := if p.majorLength = 1 then 0 else t.majorCount }
    (p.lockErrors < errors →
      exec (.bitArrival i bit) s = .next { s with
        syn := s.syn.set i
          { recorded with mode := .hunt, selected := none, polarity := .normal, verifyCount := 0, bitsToSync := 0 } })
    ∧ (errors ≤ p.lockErrors → y.verifyCount + 1 < p.verifyFrames →
      exec (.bitArrival i bit) s = .next { s with
        syn := s.syn.set i
          { recorded with verifyCount := y.verifyCount + 1, bitsToSync := p.frameWords * p.wordLength } })
    ∧ (errors ≤ p.lockErrors → p.verifyFrames ≤ y.verifyCount + 1 →
      exec (.bitArrival i bit) s = .next (State.raiseAll { s with
        syn := s.syn.set i
          { recorded with
            mode := .locked, missCount := 0, locksAcquired := y.locksAcquired + 1, windowTimer := none,
            bitsToSync := p.frameWords * p.wordLength, verifyCount := y.verifyCount + 1, lastReason := some .verified }
        trk := s.trk.set i (gained.begun p false s.timebase) }
        [.syncState i ⟨.locked, y.phase, gained.major, some k, y.polarity, .verified⟩]))

/-- R24, R25: the expected sync position in LOCKED and in COAST, where lock is held: a match begins a frame, a miss within
coast_frames a coasted one; a change of state raises MISS or RECOVERED. -/
def Obligations.LockPosition : Prop :=
  ∀ (s : State) (i : StreamId) (bit : Bool) (k : Slot) (p : Profile),
    let y := s.syn.get i
    let t := s.trk.get i
    y.mode = .locked ∨ y.mode = .coast → y.selected = some k → s.profile k = some p → y.bitsToSync = 1 →
    let recorded : Syn :=
      { y with
        history := (y.history <<< 1) ||| (if bit then 1 else 0)
        fill := min (y.fill + 1) 64, idleTimer := some s.timebase, bitsFlowing := true, frameTime := some s.timebase
        bitsToSync := p.frameWords * p.wordLength }
    let errors := differences p (if y.polarity = .inverted then ~~~recorded.history else recorded.history)
    (errors ≤ p.lockErrors → y.mode = .locked →
      exec (.bitArrival i bit) s = .next { s with
        syn := s.syn.set i recorded
        trk := s.trk.set i (t.begun p false s.timebase) })
    ∧ (errors ≤ p.lockErrors → y.mode = .coast →
      exec (.bitArrival i bit) s = .next (State.raiseAll { s with
        syn := s.syn.set i { recorded with mode := .locked, missCount := 0, lastReason := some .recovered }
        trk := s.trk.set i (t.begun p false s.timebase) }
        [.syncState i ⟨.locked, y.phase, t.major, some k, y.polarity, .recovered⟩]))
    ∧ (p.lockErrors < errors → y.mode = .locked → 1 ≤ p.coastFrames →
      exec (.bitArrival i bit) s = .next (State.raiseAll { s with
        syn := s.syn.set i { recorded with mode := .coast, missCount := 1, lastReason := some .miss }
        trk := s.trk.set i (t.begun p true s.timebase) }
        [.syncState i ⟨.coast, y.phase, t.major, some k, y.polarity, .miss⟩]))
    ∧ (p.lockErrors < errors → y.mode = .coast → y.missCount + 1 ≤ p.coastFrames →
      exec (.bitArrival i bit) s = .next { s with
        syn := s.syn.set i { recorded with missCount := y.missCount + 1 }
        trk := s.trk.set i (t.begun p true s.timebase) })

/-- R24, R25, R26, R39, R65: the miss that coast_frames does not allow loses lock: HUNT in phase STRICT, the window afresh,
the tracker in NONE, SYNC_STATE with reason MISSES, then the extraction stop (`ExtractionStops`) with reason LOCK_LOST.
That the abandoned frame is no longer extracting is the model's inference (log 15). -/
def Obligations.LockLost : Prop :=
  ∀ (s : State) (i : StreamId) (bit : Bool) (k : Slot) (p : Profile),
    let y := s.syn.get i
    (y.mode = .locked ∧ p.coastFrames = 0) ∨ (y.mode = .coast ∧ p.coastFrames < y.missCount + 1) →
    y.selected = some k → s.profile k = some p → y.bitsToSync = 1 →
    let history := (y.history <<< 1) ||| (if bit then 1 else 0)
    p.lockErrors < differences p (if y.polarity = .inverted then ~~~history else history) →
    exec (.bitArrival i bit) s = .next (State.extractionStop
      (State.raiseAll { s with
        syn := s.syn.set i
          { y with
            mode := .hunt, phase := .strict, polarity := .normal, selected := none, missCount := 0, verifyCount := 0,
            bitsToSync := 0, history := history, fill := min (y.fill + 1) 64, idleTimer := some s.timebase,
            bitsFlowing := true, frameTime := some s.timebase
            windowTimer := if y.window = 0 then none else some s.timebase
            lastReason := some .misses }
        trk := s.trk.set i
          { s.trk.get i with
            major := .noMajor, profile := none, previousId := none, frameId := none, mismatch := 0, extracting := false } }
        [.syncState i ⟨.hunt, .strict, .noMajor, none, .normal, .misses⟩]) i .lockLost)

/-- R28, R29, R31, R32: an idle expiry clears bits flowing and ends a verification, or lock with reason IDLE; a window expiry
relaxes the phase, or in phase RELAXED stops the acquisition. An expiry that is not due does not take place (the model's
choice, log 2 and 3); a frame abandoned no longer extracts (log 15). -/
def Obligations.TimersExpire : Prop :=
  (∀ (s : State) (i : StreamId),
     let y := s.syn.get i
     (∀ start, y.idleTimer = some start → y.idleTimeout * 1000 ≤ (s.timebase - start).toNat →
       exec (.idleExpiry i) s = .next (match y.mode with
         | .verify => { s with
             syn := s.syn.set i
               { y with
                 bitsFlowing := false, idleTimer := none, mode := .hunt, selected := none, polarity := .normal,
                 verifyCount := 0, bitsToSync := 0 } }
         | .locked | .coast => State.extractionStop
             (State.raiseAll { s with
               syn := s.syn.set i
                 { y with
                   bitsFlowing := false, idleTimer := none, mode := .hunt, phase := .strict, polarity := .normal,
                   selected := none, missCount := 0, verifyCount := 0, bitsToSync := 0
                   windowTimer := if y.window = 0 then none else some s.timebase
                   lastReason := some .idle }
               trk := s.trk.set i
                 { s.trk.get i with
                   major := .noMajor, profile := none, previousId := none, frameId := none, mismatch := 0,
                   extracting := false } }
               [.syncState i ⟨.hunt, .strict, .noMajor, none, .normal, .idle⟩]) i .lockLost
         | _ => { s with syn := s.syn.set i { y with bitsFlowing := false, idleTimer := none } }))
     ∧ ((∀ start, y.idleTimer = some start → (s.timebase - start).toNat < y.idleTimeout * 1000) →
       exec (.idleExpiry i) s = .next s))
    ∧ (∀ (s : State) (i : StreamId),
     let y := s.syn.get i
     let major := (s.trk.get i).major
     (∀ start, y.windowTimer = some start → y.window * 1000 ≤ (s.timebase - start).toNat →
       exec (.windowExpiry i) s = .next (match y.phase with
         | .strict => State.raiseAll { s with
             syn := s.syn.set i
               { y with
                 phase := .relaxed, windowTimer := if y.window = 0 then none else some s.timebase,
                 lastReason := some .windowRelaxed } }
             [.syncState i ⟨y.mode, .relaxed, major, y.selected, y.polarity, .windowRelaxed⟩]
         | .relaxed => State.raiseAll { s with
             syn := s.syn.set i
               { y with
                 mode := .stopped, selected := none, polarity := .normal, verifyCount := 0, bitsToSync := 0,
                 windowTimer := none, lastReason := some .windowStopped } }
             [.syncState i ⟨.stopped, .relaxed, major, none, .normal, .windowStopped⟩]))
     ∧ ((∀ start, y.windowTimer = some start → (s.timebase - start).toNat < y.window * 1000) →
       exec (.windowExpiry i) s = .next s))

/-- 02, 03: the expiries of one stream reach nothing of the other, nor of the profiles and the link but that a notice may begin on
a free line (`RaiseTaken`, log 6): the other's synchronizer, tracker, staged edits, map entries, channels and rosters stay. So does
a bit, but for the requests that the executor takes inside it (R147, log 26), no more than wait: up to the first, between two of
them and after the last nothing of the other changes. -/
def Obligations.StreamsApart : Prop :=
  ∀ (i j : StreamId) (s t : State), i ≠ j → s.MapLegal →
    let same (u v : State) : Prop :=
      v.syn.get j = u.syn.get j ∧ v.trk.get j = u.trk.get j ∧ v.stage.get j = u.stage.get j
      ∧ ofStream j v.map = ofStream j u.map
      ∧ (∀ (k : ChannelId) (ch : Channel), ch.config.stream = j → (v.channel k = some ch ↔ u.channel k = some ch))
      ∧ (∀ r : RosterId, (u.roster r).stream = j → v.roster r = u.roster r)
      ∧ v.profiles = u.profiles ∧ v.poolFree = u.poolFree ∧ v.inbound = u.inbound ∧ v.replies = u.replies
      ∧ v.cache = u.cache ∧ v.rx = u.rx ∧ (u.tx ≠ none → v.tx = u.tx) ∧ v.ready = u.ready ∧ v.timebase = u.timebase
    (∀ c, c = .idleExpiry i ∨ c = .windowExpiry i → exec c s = .next t → same s t)
    ∧ ∀ b, exec (.bitArrival i b) s = .next t →
      ∃ n ≤ s.inbound.length, ∃ before after : ℕ → State,
        same s (before 0) ∧ (∀ m < n, (before m).TurnTo i (after m) ∧ same (after m) (before (m + 1))) ∧ same (before n) t

/-- R11, R17, R19, R25, R27, R43, R45, R59, R72: the profiles and the records of both streams stay legal at every step. -/
def Obligations.StreamsKept : Prop := ∀ s t : State, s.StreamsLegal → step s = .next t → t.StreamsLegal

/-! ### Frames (R2, R45, R49 to R53, R55 to R58, R60 to R63) -/

/-- R45, R60 to R63, R66, R33: the word that completes goes through the ID handling at the ID word, the map lookup of a frame that
still extracts, and the next word or the minor frame end. There the flags are decided, the counters advance, an extracting
frame's staged samples are released in order, the lists are emptied, and a major boundary raises the count, then tells the
rosters and the map. R147: after a release the executor may take requests that wait, one after another; how many, the part
leaves free (log 26, counted by log 11), and before the first a notice may be sent (log 6); none is taken where it may take none,
and the stream's own synchronizer and tracker stay (R15). That the frame then no longer extracts and holds no word is the model's
inference (log 15). -/
def Obligations.WordsAndFrames : Prop :=
  (∀ (s : State) (i : StreamId) (k : Slot) (p : Profile),
     let pos := (s.trk.get i).wordPos
     let a := if p.idPosition = some pos then s.idHandling i p else s
     let u := a.trk.get i
     let found : List MapEntry := match u.extracting, u.frameId with
       | true, some id => lookup s.map i k pos id
       | _, _ => []
     let looked : Tracker := found.foldl (fun (t : Tracker) e =>
       t.takeFragment ((s.channel e.channel).elim 0 fun ch => ch.config.fragments) (p.fragment u.word e)) u
     s.wordComplete i k p = if pos = p.frameWords then State.minorFrameEnd { a with trk := a.trk.set i looked } i p
       else { a with trk := a.trk.set i { looked with wordPos := pos + 1, wordBits := 0, word := 0 } })
    ∧ (∀ (s : State) (i : StreamId) (p : Profile),
     let t := s.trk.get i
     let y := s.syn.get i
     let failed := decide (p.check = .crc16 ∧ t.checkReg ≠ t.word)
     let flags : FrameFlags := { t.flags with checkFail := failed }
     let ended : Tracker :=
       { t with flags := flags, assembly := [], staging := [], extracting := false, wordBits := 0, word := 0 }
     let counted : State := { s with
       trk := s.trk.set i ended
       syn := s.syn.set i
         { y with
           framesProcessed := y.framesProcessed + 1
           framesCoasted := if t.flags.coasted then y.framesCoasted + 1 else y.framesCoasted
           checkFailures := if failed then y.checkFailures + 1 else y.checkFailures } }
     let released : State :=
       if t.extracting then State.releaseAll i { t with flags := flags } counted t.staging else counted
     s.minorFrameEnd i p =
       if t.major = .majorLocked ∧ t.frameId = some p.lastMinorId then
         State.settlePending (State.rosterBoundary
           { released with trk := released.trk.set i { ended with majorCount := t.majorCount + 1 } } i (t.majorCount + 1)) i
       else released)
    ∧ (∀ (s : State) (i : StreamId) (t : Tracker) (g : Staged) (rest : List Staged),
     let released : State := s.release i g.channel
       ⟨0, g.value, ⟨g.parity, t.flags.checkFail, t.flags.coasted, t.flags.idPredicted, t.flags.inverted⟩,
         BitVec.ofNat 8 (t.frameId.getD 0), t.majorCount, t.frameStamp⟩
     State.releaseAll i t s [] = s
     ∧ State.releaseAll i t s (g :: rest) = State.releaseAll i t (released.requestsBetween i) rest)
    ∧ ∀ (s : State) (i : StreamId),
     ((¬ ∃ v, s.TurnTo i v) → s.requestsBetween i = s)
     ∧ (s.requestsBetween i).syn.get i = s.syn.get i ∧ (s.requestsBetween i).trk.get i = s.trk.get i
     ∧ ∃ u, (u = s ∨ u = { s with draws := s.draws + 1 } ∨ exec .noticeSend { s with draws := s.draws + 1 } = .next u)
       ∧ ∃ n ≤ s.inbound.length, ∃ p : ℕ → State, (p 0 = s ∨ p 0 = { u with draws := u.draws + 1 })
       ∧ (∀ m < n, (p m).TurnTo i (p (m + 1))) ∧ p n = s.requestsBetween i
       ∧ (n = Config.requestsFall u.draws ∨ n = s.inbound.length ∨ ¬ ∃ v, (p n).TurnTo i v)

/-- R49 to R53: the ID word, with the ID its least significant b data bits spell. In MAJOR_SEARCH two IDs in succession gain
the position; in MAJOR_LOCKED a first mismatch is predicted over and a second loses it, with an extraction stop. -/
def Obligations.IdWord : Prop :=
  ∀ (s : State) (i : StreamId) (p : Profile) (b : Nat), p.idWidth = some b → 1 ≤ p.wordLength →
    let t := s.trk.get i
    let y := s.syn.get i
    let read := (match p.parity with
      | .noParity => t.word.toNat
      | _ => t.word.toNat / 2) % 2 ^ b
    let inRange := if p.idBase ≤ read ∧ read ≤ p.idBase + p.majorLength - 1 then some read else none
    let succeeds := inRange = some read ∧ ∃ prev, t.previousId = some prev ∧ p.succId prev = read
    (t.major = .majorSearch → succeeds →
      s.idHandling i p = State.raiseAll { s with
        trk := s.trk.set i
          { t with
            major := .majorLocked, mismatch := 0, majorCount := 0, frameId := some read, previousId := some read,
            lastId := some read }
        syn := s.syn.set i { y with lastReason := some .majorGained } }
        [.syncState i ⟨y.mode, y.phase, .majorLocked, y.selected, y.polarity, .majorGained⟩])
    ∧ (t.major = .majorSearch → ¬ succeeds →
      s.idHandling i p = { s with
        trk := s.trk.set i { t with frameId := inRange, previousId := inRange, lastId := inRange } })
    ∧ (t.major = .majorLocked → t.frameId = some read →
      s.idHandling i p = { s with
        trk := s.trk.set i { t with mismatch := 0, previousId := t.frameId, lastId := t.frameId } })
    ∧ (t.major = .majorLocked → t.frameId ≠ some read → t.mismatch = 0 →
      s.idHandling i p = { s with
        trk := s.trk.set i
          { t with
            mismatch := 1, flags := { t.flags with idPredicted := true }, previousId := t.frameId, lastId := t.frameId } })
    ∧ (t.major = .majorLocked → t.frameId ≠ some read → t.mismatch = 1 →
      s.idHandling i p = State.extractionStop (State.raiseAll { s with
        trk := s.trk.set i
          { t with
            major := .majorSearch, mismatch := 0, extracting := false, previousId := inRange, frameId := inRange,
            lastId := inRange }
        syn := s.syn.set i { y with lastReason := some .majorLost } }
        [.syncState i ⟨y.mode, y.phase, .majorSearch, y.selected, y.polarity, .majorLost⟩]) i .majorLost)

/-- R55, R56: the lookup finds the committed entries of the stream, profile and position whose selector covers the ID, each
once, in increasing channel number; a fragment is its entry's run of the word's data bits, the first to arrive the most
significant, with the word's parity result. -/
def Obligations.LookupFinds : Prop :=
  (∀ (m : List MapEntry) (i : StreamId) (k : Slot) (pos id : Nat),
      (lookup m i k pos id).Pairwise (fun a b => a.channel ≤ b.channel)
      ∧ ∀ e, (lookup m i k pos id).count e
        = if e.stream = i ∧ e.profile = k ∧ e.position = pos ∧ e.first ≤ id ∧ e.step ∣ id - e.first then m.count e
          else 0)
    ∧ ∀ (p : Profile) (w : BitVec 16) (e : MapEntry), e.offset + e.width ≤ p.dataBits → 1 ≤ p.wordLength →
      p.wordLength ≤ 16 →
      let f := p.fragment w e
      let ones := ((List.range p.wordLength).filter fun n => w.getLsbD n).length
      f.channel = e.channel ∧ f.index = e.fragment ∧ f.width = e.width ∧ f.value < 2 ^ e.width
        ∧ (∀ n < e.width, f.value.testBit (e.width - 1 - n) = w.getLsbD (p.wordLength - 1 - (e.offset + n)))
        ∧ f.parity = (match p.parity with
          | .noParity => false
          | .odd => ones % 2 == 0
          | .even => ones % 2 == 1)

/-- R57, R58: a channel's fragments 0..F−1 taken in index order stage one sample of the joined value, whatever the assembly
list held for it; a first fragment of several stands on the list, and a fragment out of turn is dropped. -/
def Obligations.FragmentsJoin : Prop :=
  (∀ (t : Tracker) (c : ChannelId) (fs : List Fragment), fs ≠ [] → (∀ f ∈ fs, f.channel = c) →
      fs.map Fragment.index = List.range fs.length →
      fs.foldl (fun (u : Tracker) f => u.takeFragment fs.length f) t = { t with
        assembly := t.assembly.filter fun a => a.channel ≠ c
        staging := t.staging ++
          [⟨c, fs.foldl (fun v f => (v <<< f.width) + BitVec.ofNat 32 f.value) 0, fs.any Fragment.parity⟩] })
    ∧ (∀ (t : Tracker) (f : Fragment) (n : Nat), f.index = 0 → 1 < n →
      t.takeFragment n f = { t with
        assembly := (t.assembly.filter fun a => a.channel ≠ f.channel)
          ++ [⟨f.channel, 1, BitVec.ofNat 32 f.value, f.parity⟩] })
    ∧ ∀ (t : Tracker) (f : Fragment) (n : Nat), 0 < f.index →
      (∀ a ∈ t.assembly, a.channel = f.channel → a.received ≠ f.index) → t.takeFragment n f = t

/-! ### The Extraction Map (R70 to R75, R77 to R83, R85 to R89, R91, R93) -/

/-- R73, R74, R91, R93: MAP_ADD and MAP_REMOVE check the ranges, BUSY, NO_ROOM, and stage one edit at the end of the stream's list;
MAP_DISCARD empties the list and cancels its commit; MAP_LIST reports the counts, the flags and up to 12 entries from the
start index, as section 10.8 lays them out. -/
def Obligations.MapStagedLists : Prop :=
  (∀ (s : State) (tag stream profile channel fragment offset width : Byte) (position first step : BitVec 16)
     (rest : List Request),
     let add : Request := ⟨0x18, tag, [stream, profile] ++ be 2 position.toNat ++ be 2 first.toNat ++ be 2 step.toNat
       ++ [channel, fragment, offset, width]⟩
     let remove : Request := ⟨0x19, tag, [stream, channel, profile, fragment]⟩
     let staged (q : Request) (i : StreamId) (edit : Edit) : State :=
       let g := s.stage.get i
       if g.pending then s.answered q rest .busy []
       else if 64 ≤ g.edits.length then s.answered q rest .noRoom []
       else State.answered { s with stage := s.stage.set i { g with edits := g.edits ++ [edit] } } q rest .ok
         [BitVec.ofNat 8 g.edits.length, BitVec.ofNat 8 (g.edits.length + 1)]
     (s.fresh add rest →
       (1 < stream.toNat → exec .mapAdd s = .next (s.answered add rest .badValue [0]))
       ∧ ∀ i : StreamId, stream.toNat = i.index → exec .mapAdd s = .next (
         if h : 4 ≤ profile.toNat then s.answered add rest .badValue [1]
         else if position = 0 ∨ 1024 < position.toNat then s.answered add rest .badValue [2]
         else if 256 < first.toNat then s.answered add rest .badValue [3]
         else if 256 < step.toNat then s.answered add rest .badValue [4]
         else if h' : 128 ≤ channel.toNat then s.answered add rest .badValue [5]
         else if 3 < fragment.toNat then s.answered add rest .badValue [6]
         else if 15 < offset.toNat then s.answered add rest .badValue [7]
         else if width = 0 ∨ 16 < width.toNat then s.answered add rest .badValue [8]
         else staged add i (.add ⟨i, ⟨profile.toNat, by omega⟩, position.toNat, first.toNat, step.toNat,
           ⟨channel.toNat, by omega⟩, fragment.toNat, offset.toNat, width.toNat⟩)))
     ∧ (s.fresh remove rest →
       (1 < stream.toNat → exec .mapRemove s = .next (s.answered remove rest .badValue [0]))
       ∧ ∀ i : StreamId, stream.toNat = i.index → exec .mapRemove s = .next (
         if h : 128 ≤ channel.toNat then s.answered remove rest .badValue [1]
         else if h' : 4 ≤ profile.toNat then s.answered remove rest .badValue [2]
         else if 3 < fragment.toNat ∧ fragment ≠ 0xFF then s.answered remove rest .badValue [3]
         else staged remove i (if fragment = 0xFF then .removeAll ⟨channel.toNat, by omega⟩ ⟨profile.toNat, by omega⟩
           else .remove ⟨channel.toNat, by omega⟩ ⟨profile.toNat, by omega⟩ fragment.toNat))))
    ∧ (∀ (s : State) (tag stream : Byte) (start : BitVec 16) (rest : List Request),
     (s.fresh ⟨0x1B, tag, [stream]⟩ rest →
       (1 < stream.toNat → exec .mapDiscard s = .next (s.answered ⟨0x1B, tag, [stream]⟩ rest .badValue [0]))
       ∧ ∀ i : StreamId, stream.toNat = i.index →
         exec .mapDiscard s = .next (State.answered { s with stage := s.stage.set i ⟨[], false, 0⟩ }
           ⟨0x1B, tag, [stream]⟩ rest .ok
           [BitVec.ofNat 8 (s.stage.get i).edits.length, if (s.stage.get i).pending then 1 else 0]))
     ∧ (s.fresh ⟨0x1C, tag, be 2 start.toNat⟩ rest →
       let entries := (s.map.drop start.toNat).take 12
       exec .mapList s = .next (if 511 < start.toNat then s.answered ⟨0x1C, tag, be 2 start.toNat⟩ rest .badValue [0]
         else s.answered ⟨0x1C, tag, be 2 start.toNat⟩ rest .ok
           (be 2 s.map.length
             ++ [BitVec.ofNat 8 s.stage.s0.edits.length, BitVec.ofNat 8 s.stage.s1.edits.length,
               BitVec.ofNat 8 (s.stage.s0.pending.toNat + 2 * s.stage.s1.pending.toNat)]
             ++ be 2 start.toNat ++ [BitVec.ofNat 8 entries.length]
             ++ entries.flatMap fun e =>
               [BitVec.ofNat 8 e.stream.index, BitVec.ofNat 8 e.profile.val] ++ be 2 e.position ++ be 2 e.first ++ be 2 e.step
                 ++ [BitVec.ofNat 8 e.channel.val, BitVec.ofNat 8 e.fragment, BitVec.ofNat 8 e.offset,
                   BitVec.ofNat 8 e.width]))))

/-- R75, R82, R83, R193: MAP_COMMIT by the first case that holds. A commit that fails validation reports the failure, one that
validates is applied at once while extraction is not active, and otherwise becomes pending with its growth fixed. -/
def Obligations.MapCommitted : Prop :=
  ∀ (s : State) (tag stream : Byte) (rest : List Request),
    let q : Request := ⟨0x1A, tag, [stream]⟩
    s.fresh q rest →
    (1 < stream.toNat → exec .mapCommit s = .next (s.answered q rest .badValue [0]))
    ∧ ∀ i : StreamId, stream.toNat = i.index →
      let g := s.stage.get i
      let edits := BitVec.ofNat 8 g.edits.length
      let active := decide ((s.syn.get i).mode = .locked ∨ (s.syn.get i).mode = .coast)
        && decide ((s.trk.get i).major = .majorLocked)
      let map := applyEdits i s.map g.edits
      exec .mapCommit s = .next (
        if g.pending then s.answered q rest .busy []
        else if g.edits = [] then s.answered q rest .ok (0 :: be 2 s.map.length)
        else match s.validate i with
          | some f => s.answered q rest .invalidMap
              ([BitVec.ofNat 8 f.edit,
                  BitVec.ofNat 8 (([.noEntry, .noChannel, .noProfile, .position, .bits, .selector, .duplicate, .capacity,
                    .incomplete, .order, .width, .staging] : List MapReason).idxOf f.reason + 1),
                  BitVec.ofNat 8 ((f.channel.map Fin.val).getD 0xFF), BitVec.ofNat 8 ((f.profile.map Fin.val).getD 0xFF)]
                ++ be 2 (f.minorId.getD 0xFFFF))
          | none =>
            if active then State.answered
              { s with stage := s.stage.set i { g with pending := true, growth := (countOf i map : Int) - countOf i s.map } }
              q rest .accepted (edits :: be 2 s.map.length)
            else State.answered (s.applyCommit i) q rest .ok (edits :: be 2 map.length))

/-- R70, R71, R85, R86, R87, R89: the application of a commit. The edits apply in order, an ADD at the end, a removal closing
up; the stream's list empties, and each of its channels takes the width the map gives it, settling afresh where that changes
it. A boundary applies a pending commit and raises MAP_APPLIED. -/
def Obligations.CommitApplied : Prop :=
  (∀ (i : StreamId) (m : List MapEntry) (e : MapEntry) (c : ChannelId) (k : Slot) (n : Nat) (a b : List Edit),
      applyEdits i m [] = m ∧ applyEdits i m (a ++ b) = applyEdits i (applyEdits i m a) b
      ∧ applyEdits i m [.add e] = m ++ [e]
      ∧ applyEdits i m [.remove c k n]
        = m.filter (fun x => ¬ (x.stream = i ∧ x.channel = c ∧ x.profile = k ∧ x.fragment = n))
      ∧ applyEdits i m [.removeAll c k] = m.filter fun x => ¬ (x.stream = i ∧ x.channel = c ∧ x.profile = k))
    ∧ (∀ (m : List MapEntry) (c : ChannelId), (∀ e ∈ m, e.channel ≠ c) → mapWidth m c = 0)
    ∧ (∀ (m : List MapEntry) (c : ChannelId),
      let width (k : Slot) : Nat := ((m.filter fun x => x.channel = c ∧ x.profile = k).map MapEntry.width).sum
      (∀ a ∈ m, ∀ b ∈ m, a.channel = c → b.channel = c → width a.profile = width b.profile) →
      ∀ e ∈ m, e.channel = c → mapWidth m c = width e.profile)
    ∧ ∀ (s : State) (i : StreamId),
      let map := applyEdits i s.map (s.stage.get i).edits
      let applied : State := { s with
        map := map
        stage := s.stage.set i ⟨[], false, 0⟩
        channels := Vector.ofFn fun c : ChannelId => (s.channel c).map fun ch =>
          if ch.config.stream = i ∧ ch.width ≠ mapWidth map c then
            { ch with width := mapWidth map c, candidate := none, agree := 0 }
          else ch }
      s.applyCommit i = applied
        ∧ s.settlePending i = if (s.stage.get i).pending then
            applied.raiseAll [.mapApplied i (s.stage.get i).edits.length map.length]
          else s

/-- R76 to R79: the edits are checked in order against the copy, and the first that fails is reported with its number, its
reason and its channel. -/
def Obligations.EditsChecked : Prop :=
  (∀ (s : State) (i : StreamId) (growth : Int) (copy : List MapEntry) (c : ChannelId) (k : Slot) (n : Nat),
      s.editFails i growth copy (.remove c k n)
        = (if ∃ e ∈ copy, e.stream = i ∧ e.channel = c ∧ e.profile = k ∧ e.fragment = n then none else some .noEntry)
      ∧ s.editFails i growth copy (.removeAll c k)
        = (if ∃ e ∈ copy, e.stream = i ∧ e.channel = c ∧ e.profile = k then none else some .noEntry))
    ∧ (∀ (s : State) (i : StreamId) (growth : Int) (copy : List MapEntry) (e : MapEntry),
      ((∀ ch, s.channel e.channel = some ch → ch.config.stream ≠ i) →
        s.editFails i growth copy (.add e) = some .noChannel)
      ∧ ∀ ch, s.channel e.channel = some ch → ch.config.stream = i →
        (s.profile e.profile = none → s.editFails i growth copy (.add e) = some .noProfile)
        ∧ ∀ p, s.profile e.profile = some p →
          s.editFails i growth copy (.add e) =
            if e.position ≤ p.syncLength / p.wordLength ∨ p.frameWords < e.position
              ∨ (p.check = .crc16 ∧ e.position = p.frameWords) then some .position
            else if p.dataBits < e.offset + e.width then some .bits
            else if e.first < p.idBase ∨ p.idBase + p.majorLength - 1 < e.first ∨ e.step = 0 ∨ p.majorLength < e.step then
              some .selector
            else if ∃ x ∈ copy, x.channel = e.channel ∧ x.profile = e.profile ∧ x.fragment = e.fragment then some .duplicate
            else if (512 : Int) < copy.length + 1 + growth then some .capacity
            else none)
    ∧ ∀ (s : State) (i : StreamId) (before after : List Edit) (edit : Edit) (reason : MapReason),
      let growth : Int := match i with
        | .s0 => if s.stage.s1.pending then s.stage.s1.growth else 0
        | .s1 => if s.stage.s0.pending then s.stage.s0.growth else 0
      (s.stage.get i).edits = before ++ edit :: after →
      (∀ n (h : n < before.length), s.editFails i growth (applyEdits i s.map (before.take n)) before[n] = none) →
      s.editFails i growth (applyEdits i s.map before) edit = some reason →
      s.validate i = some ⟨before.length, reason, some edit.channel, none, none⟩

/-- R57, R76, R80, R81: a staged list validates exactly when every edit passes and the result is sound: of every channel bound
to the stream, the entries under one profile are its fragments 0 to F−1, once each, with one selector, positions rising with the
fragment index and one total width of 32 at most under every profile; and no ID of a profile is covered by more than 64 channels
of the stream. When every edit passes, the failure reported is the first of INCOMPLETE, ORDER and WIDTH that some channel has, at
the lowest such channel, and then STAGING, at the lowest profile and ID, each with the number of the last edit. -/
def Obligations.ValidCommits : Prop :=
  ∀ (s : State) (i : StreamId),
    let edits := (s.stage.get i).edits
    let growth : Int := match i with
      | .s0 => if s.stage.s1.pending then s.stage.s1.growth else 0
      | .s1 => if s.stage.s0.pending then s.stage.s0.growth else 0
    let editsPass : Prop :=
      ∀ n (h : n < edits.length), s.editFails i growth (applyEdits i s.map (edits.take n)) edits[n] = none
    let copy := applyEdits i s.map edits
    let under (c : ChannelId) (k : Slot) : List MapEntry := copy.filter fun e => e.channel = c ∧ e.profile = k
    let sum (c : ChannelId) (k : Slot) : Nat := ((under c k).map MapEntry.width).sum
    let bound (c : ChannelId) (ch : Channel) : Prop := s.channel c = some ch ∧ ch.config.stream = i
    let covering (k : Slot) (id : Nat) : Nat := (allChannels.filter fun c =>
      ∃ e ∈ copy, e.stream = i ∧ e.profile = k ∧ e.channel = c ∧ e.first ≤ id ∧ e.step ∣ id - e.first).length
    let isId (k : Slot) (id : Nat) : Prop := ∃ p, s.profile k = some p ∧ p.idBase ≤ id ∧ id < p.idBase + p.majorLength
    let incomplete (c : ChannelId) : Prop := ∃ ch k, bound c ch ∧ under c k ≠ []
      ∧ ¬ ((under c k).length = ch.config.fragments ∧ ∀ n < ch.config.fragments, ∃ e ∈ under c k, e.fragment = n)
    let order (c : ChannelId) : Prop := ∃ ch k, bound c ch ∧ ∃ a ∈ under c k, ∃ b ∈ under c k,
      ¬ (a.first = b.first ∧ a.step = b.step ∧ (a.fragment < b.fragment → a.position < b.position))
    let wide (c : ChannelId) : Prop := ∃ ch k, bound c ch ∧ under c k ≠ []
      ∧ (32 < sum c k ∨ ∃ j, under c j ≠ [] ∧ sum c j ≠ sum c k)
    (s.validate i = none ↔ editsPass ∧ (∀ c, ¬ incomplete c ∧ ¬ order c ∧ ¬ wide c) ∧ ∀ k id, isId k id → covering k id ≤ 64)
    ∧ (edits ≠ [] → editsPass →
      (∀ c, incomplete c → (∀ d < c, ¬ incomplete d) →
        s.validate i = some ⟨edits.length - 1, .incomplete, some c, none, none⟩)
      ∧ (∀ c, (∀ d, ¬ incomplete d) → order c → (∀ d < c, ¬ order d) →
        s.validate i = some ⟨edits.length - 1, .order, some c, none, none⟩)
      ∧ (∀ c, (∀ d, ¬ incomplete d ∧ ¬ order d) → wide c → (∀ d < c, ¬ wide d) →
        s.validate i = some ⟨edits.length - 1, .width, some c, none, none⟩)
      ∧ ∀ k id, (∀ d, ¬ incomplete d ∧ ¬ order d ∧ ¬ wide d) → isId k id → 64 < covering k id →
        (∀ j id', j < k ∨ (j = k ∧ id' < id) → isId j id' → covering j id' ≤ 64) →
        s.validate i = some ⟨edits.length - 1, .staging, none, some k, some id⟩)

/-- R68, R69, R79, R85: the committed entries keep naming channels bound to their stream and LOADED profiles under distinct
keys, and the pending commits stay applicable, at every step. -/
def Obligations.MapKept : Prop := ∀ s t : State, s.MapLegal → step s = .next t → t.MapLegal

/-! ### Channels (R97 to R108, R110 to R113) -/

/-- R69, R98 to R101, R135, R136: CHANNEL_BIND, its checks in order, then the whole record as bind leaves it and the pool's free
count down by q; CHANNEL_UNBIND by the first case that holds, an accepted one returning the record and its reservation. -/
def Obligations.ChannelBinding : Prop :=
  (∀ (s : State) (tag channel stream fragments signed policy : Byte) (capacity watermark : BitVec 16) (rest : List Request),
     let q : Request := ⟨0x20, tag, [channel, stream, fragments, signed] ++ be 2 capacity.toNat ++ [policy]
       ++ be 2 watermark.toNat⟩
     s.fresh q rest →
     (127 < channel.toNat → exec .channelBind s = .next (s.answered q rest .badValue [0]))
     ∧ ∀ c : ChannelId, channel.toNat = c.val →
       exec .channelBind s = .next (
         if 1 < stream.toNat then s.answered q rest .badValue [1]
         else if fragments = 0 ∨ 4 < fragments.toNat then s.answered q rest .badValue [2]
         else if 1 < signed.toNat then s.answered q rest .badValue [3]
         else if 512 < capacity.toNat then s.answered q rest .badValue [4]
         else if 1 < policy.toNat then s.answered q rest .badValue [5]
         else if capacity.toNat < watermark.toNat then s.answered q rest .badValue [6]
         else if (s.channel c).isSome then s.answered q rest .inUse []
         else if s.poolFree < capacity.toNat then s.answered q rest .noRoom (be 2 s.poolFree)
         else State.answered
           { s with
             channels := s.channels.set c.val (some
               { config := ⟨if stream = 0 then .s0 else .s1, fragments.toNat, decide (signed = 1), capacity.toNat,
                   if policy = 0 then .keepOldest else .keepNewest, watermark.toNat⟩
                 width := 0, settings := ⟨1, 0, false, 0, 0, 0, 0, 0⟩, data := .noData, nextSeq := 0, candidate := none,
                 agree := 0, settled := none, limit := .normal, latches := 0, staleTimer := none
                 queue := ⟨[], 0, true⟩ })
             poolFree := s.poolFree - capacity.toNat }
           q rest .ok (be 2 (s.poolFree - capacity.toNat))))
    ∧ (∀ (s : State) (tag channel : Byte) (rest : List Request), s.fresh ⟨0x21, tag, [channel]⟩ rest →
     (127 < channel.toNat → exec .channelUnbind s = .next (s.answered ⟨0x21, tag, [channel]⟩ rest .badValue [0]))
     ∧ ∀ c : ChannelId, channel.toNat = c.val →
       let committed := (s.map.filter fun e => e.channel = c).length
       let adds (i : StreamId) : Nat := ((s.stage.get i).edits.filter fun e => match e with
         | .add x => decide (x.channel = c)
         | _ => false).length
       exec .channelUnbind s = .next (match s.channel c with
         | none => s.answered ⟨0x21, tag, [channel]⟩ rest .ok (0 :: 0 :: 0 :: be 2 s.poolFree)
         | some ch =>
           if 0 < committed + (adds .s0 + adds .s1) then s.answered ⟨0x21, tag, [channel]⟩ rest .inUse
             (be 2 committed ++ [BitVec.ofNat 8 (adds .s0 + adds .s1)])
           else State.answered
             { s with channels := s.channels.set c.val none, poolFree := s.poolFree + ch.config.capacity }
             ⟨0x21, tag, [channel]⟩ rest .ok
             (1 :: (be 2 ch.queue.records.length ++ be 2 (s.poolFree + ch.config.capacity)))))

/-- R102, R103, R129, R130: CHANNEL_SET, its checks in order, then the settings stored, agreement restarted, the limits
evaluated from the state held when one of their settings changed, and the stale timer of a changed window. -/
def Obligations.ChannelSet : Prop :=
  ∀ (s : State) (tag channel settle enabled kinds : Byte) (deadband stale : BitVec 16) (low high hyst : BitVec 32)
    (rest : List Request),
    let q : Request := ⟨0x22, tag, [channel, settle] ++ be 2 deadband.toNat ++ [enabled] ++ be 4 low.toNat ++ be 4 high.toNat
      ++ be 4 hyst.toNat ++ be 2 stale.toNat ++ [kinds]⟩
    s.fresh q rest →
    (127 < channel.toNat → exec .channelSet s = .next (s.answered q rest .badValue [0]))
    ∧ ∀ c : ChannelId, channel.toNat = c.val →
      let fits (ch : Channel) : Bool := decide (readLimit ch.config.signed low + hyst.toNat
        ≤ readLimit ch.config.signed high - hyst.toNat)
      let set : ChannelSettings :=
        ⟨settle.toNat, deadband.toNat, decide (enabled = 1), low, high, hyst, stale.toNat, kinds.setWidth 6⟩
      let differ (ch : Channel) : Bool := decide (ch.settings.limitsEnabled ≠ decide (enabled = 1) ∨ ch.settings.low ≠ low
        ∨ ch.settings.high ≠ high ∨ ch.settings.hysteresis ≠ hyst)
      let moved (ch : Channel) : LimitState := match ch.settled with
        | none => ch.limit
        | some v =>
          if differ ch then
            if enabled = 1 then limitMove (readLimit ch.config.signed low) (readLimit ch.config.signed high) hyst.toNat
              (readValue ch.config.signed v.width v.value) ch.limit
            else .normal
          else ch.limit
      let after (ch : Channel) : Channel :=
        { ch with
          settings := set, candidate := none, agree := 0, limit := moved ch
          latches := ch.latches ||| (if moved ch = ch.limit then 0 else match moved ch with
            | .normal => 0
            | .low => 0b0010000
            | .high => 0b0100000)
          staleTimer := if stale.toNat = ch.settings.staleWindow then ch.staleTimer else match ch.data with
            | .current _ => if stale = 0 then none else some s.timebase
            | _ => ch.staleTimer }
      let raised (ch : Channel) : List Raise := match ch.settled with
        | none => []
        | some v =>
          if moved ch ≠ ch.limit ∧ kinds.getLsbD 2 = true then [.limit c ch.limit (moved ch) v .set] else []
      exec .channelSet s = .next (
        if settle = 0 ∨ 15 < settle.toNat then s.answered q rest .badValue [1]
        else if 1 < enabled.toNat then s.answered q rest .badValue [3]
        else if enabled = 1 ∧ (match s.channel c with
          | some ch => !fits ch
          | none => false) = true then s.answered q rest .badValue [6]
        else if 63 < kinds.toNat then s.answered q rest .badValue [8]
        else match s.channel c with
          | none => s.answered q rest .noSuch []
          | some ch => State.answered
              (State.raiseAll { s with channels := s.channels.set c.val (some (after ch)) } (raised ch)) q rest .ok
              [BitVec.ofNat 8 (moved ch).code])

/-- R105, section 10.8: CHANNEL_READ reports the record, the queue and the map claims as they stand and changes nothing.
The bytes of a BOUND channel's field marked absent are free (log 10, counted by log 11); an UNBOUND channel's stale reason reads
none, the model's inference (log 14), and the bytes of its absent fields 0, the model's choice (log 28). -/
def Obligations.ChannelReported : Prop :=
  ∀ (s : State) (tag channel : Byte) (rest : List Request), s.fresh ⟨0x23, tag, [channel]⟩ rest →
    (127 < channel.toNat → exec .channelRead s = .next (s.answered ⟨0x23, tag, [channel]⟩ rest .badValue [0]))
    ∧ ∀ c : ChannelId, channel.toNat = c.val →
      let claims := be 2 (s.committedClaims c) ++ [BitVec.ofNat 8 (s.stagedClaims c)]
      (s.channel c = none → exec .channelRead s = .next (s.answered ⟨0x23, tag, [channel]⟩ rest .ok
        (List.replicate 29 0 ++ [3, 0xFF] ++ List.replicate 47 0 ++ claims)))
      ∧ ∀ ch, s.channel c = some ch →
        ∃ f20 f4 f5 f2 : List Byte, f20.length = 20 ∧ f4.length = 4 ∧ f5.length = 5 ∧ f2.length = 2 ∧
        exec .channelRead s = .next (State.answered { s with draws := s.draws + 4 } ⟨0x23, tag, [channel]⟩ rest .ok (
          [1, BitVec.ofNat 8 ch.config.stream.index, BitVec.ofNat 8 ch.config.fragments, if ch.config.signed then 1 else 0]
          ++ be 2 ch.config.capacity ++ [BitVec.ofNat 8 ch.config.policy.code] ++ be 2 ch.config.watermark
          ++ [BitVec.ofNat 8 ch.width]
          ++ [BitVec.ofNat 8 ch.settings.settleCount] ++ be 2 ch.settings.deadband
          ++ [if ch.settings.limitsEnabled then 1 else 0]
          ++ be 4 ch.settings.low.toNat ++ be 4 ch.settings.high.toNat ++ be 4 ch.settings.hysteresis.toNat
          ++ be 2 ch.settings.staleWindow ++ [ch.settings.noticeSet.setWidth 8]
          ++ (match ch.data with
            | .noData => 0 :: 0xFF :: 0 :: f20
            | .current r => 1 :: 0xFF :: 1 :: r.bytes
            | .stale why r => 2 :: BitVec.ofNat 8 why.code :: 1 :: r.bytes)
          ++ be 4 ch.nextSeq.toNat
          ++ (match ch.candidate with
            | none => 0 :: f4
            | some v => 1 :: be 4 v.toNat)
          ++ [BitVec.ofNat 8 ch.agree]
          ++ (match ch.settled with
            | none => 0 :: f5
            | some v => 1 :: (be 4 v.value.toNat ++ [BitVec.ofNat 8 v.width]))
          ++ [BitVec.ofNat 8 ch.limit.code, ch.latches.setWidth 8]
          ++ (match ch.staleTimer with
            | none => 0 :: f2
            | some start => 1 :: be 2 ((ch.settings.staleWindow * 1000 - (s.timebase - start).toNat) / 1000))
          ++ be 2 ch.queue.records.length ++ be 2 ch.queue.dropped ++ [if ch.queue.flagArmed then 1 else 0] ++ claims))

/-- R106, R107, R148: CHANNEL_CLEAR, its checks in order, then the work of every part it names as one step, whichever of the
rows of its parts takes it (the model's choice, log 13); nothing is raised and the next sequence is kept. -/
def Obligations.ChannelCleared : Prop :=
  ∀ row ∈ [(Instr.channelClearLatches, 0), (Instr.channelClearValue, 1), (Instr.channelClearQueue, 2)],
    ∀ (s : State) (tag channel parts set : Byte) (rest : List Request),
      let q : Request := ⟨0x24, tag, [channel, parts, set]⟩
      s.fresh q rest → parts = 0 ∨ 7 < parts.toNat ∨ parts.getLsbD row.2 = true →
      (127 < channel.toNat → exec row.1 s = .next (s.answered q rest .badValue [0]))
      ∧ ∀ c : ChannelId, channel.toNat = c.val →
        let after (ch : Channel) : Channel :=
          { ch with
            latches := if parts.getLsbD 0 then ch.latches &&& ~~~(set.setWidth 7) else ch.latches
            data := if parts.getLsbD 1 then .noData else ch.data
            candidate := if parts.getLsbD 1 then none else ch.candidate
            agree := if parts.getLsbD 1 then 0 else ch.agree
            settled := if parts.getLsbD 1 then none else ch.settled
            limit := if parts.getLsbD 1 then .normal else ch.limit
            staleTimer := if parts.getLsbD 1 then none else ch.staleTimer
            queue := if parts.getLsbD 2 then ⟨[], 0, true⟩ else ch.queue }
        exec row.1 s = .next (
          if parts = 0 ∨ 7 < parts.toNat then s.answered q rest .badValue [1]
          else if parts.getLsbD 0 = true ∧ 127 < set.toNat then s.answered q rest .badValue [2]
          else match s.channel c with
            | none => s.answered q rest .noSuch []
            | some ch => State.answered { s with channels := s.channels.set c.val (some (after ch)) } q rest .ok
              (be 2 (if parts.getLsbD 2 then ch.queue.records.length else 0) ++ [(after ch).latches.setWidth 8]))

/-- R108, R109, R131: a sample released to a channel BOUND to the stream. It takes the next sequence, becomes the last
sample, sets its latches, settles (`Settling`), is pushed (`QueuePushed`), raises SAMPLE and restarts the stale timer, the
raises in that order. -/
def Obligations.SampleReleased : Prop :=
  ∀ (s : State) (i : StreamId) (c : ChannelId) (raw : Sample) (ch : Channel), s.channel c = some ch → ch.config.stream = i →
    let r : Sample := { raw with sequence := ch.nextSeq }
    let got : Channel :=
      { ch with
        nextSeq := ch.nextSeq + 1
        data := .current r
        latches := ch.latches ||| 1 ||| (if raw.flags.parity then 2 else 0) ||| (if raw.flags.checkFail then 4 else 0)
          ||| (if raw.flags.coasted then 8 else 0) }
    let settled := (got.settle c r).1
    let pushed := (settled.push c r).1
    s.release i c raw = State.raiseAll { s with
      channels := s.channels.set c.val (some
        { pushed with staleTimer := if ch.settings.staleWindow = 0 then none else some s.timebase }) }
      ((got.settle c r).2 ++ (settled.push c r).2 ++ if ch.settings.noticeSet.getLsbD 0 then [.sample c r] else [])

/-- R110, R111, R113: the expiry of a CURRENT channel's stale timer makes it STALE with reason TIMEOUT and raises STALE. An
expiry that is not due does not take place: the model's choice (log 2 and 3). -/
def Obligations.StaleExpires : Prop :=
  ∀ (s : State) (c : ChannelId),
    (∀ ch r start, s.channel c = some ch → ch.data = .current r → ch.staleTimer = some start →
      ch.settings.staleWindow * 1000 ≤ (s.timebase - start).toNat →
      exec (.staleTimerExpiry c.val) s = .next (State.raiseAll { s with
        channels := s.channels.set c.val (some
          { ch with data := .stale .timeout r, staleTimer := none, candidate := none, agree := 0 }) }
        (if ch.settings.noticeSet.getLsbD 3 then [.stale c .timeout r.sequence r.stamp] else [])))
    ∧ ((∀ ch start, s.channel c = some ch → ch.staleTimer = some start →
        (s.timebase - start).toNat < ch.settings.staleWindow * 1000) →
      exec (.staleTimerExpiry c.val) s = .next s)

/-! ### Settling and limits (R97, R117 to R123, R126 to R128, R130, R132) -/

/-- R97, R126: a value field read as a whole number at its width, the limits at 32 bits, and the limit state's move, the first
condition that holds deciding. -/
def Obligations.NumbersAndLimits : Prop :=
  (∀ (v : BitVec 32) (w : Nat), w ≤ 32 → v.toNat < 2 ^ w →
     readValue false w v = v.toNat
       ∧ readValue true w v = (if 0 < w ∧ v.getLsbD (w - 1) = true then (v.toNat : Int) - 2 ^ w else v.toNat)
       ∧ readLimit true v = readValue true 32 v ∧ readLimit false v = v.toNat)
    ∧ (∀ (low high h v : Int),
     (limitMove low high h v .normal = if v > high then .high else if v < low then .low else .normal)
     ∧ (limitMove low high h v .high = if v < low then .low else if v ≤ high - h then .normal else .high)
     ∧ (limitMove low high h v .low = if v > high then .high else if v ≥ low + h then .normal else .low)
     ∧ ∀ l, 0 ≤ h → low + h ≤ v → v ≤ high - h → limitMove low high h v l = .normal)

/-- R119 to R123, R128, R130: settling of a sample. A bad one breaks the run; a good one moves the candidate, and with the
agree count at settle_count sets the settled value, which on a change raises SETTLED and then evaluates the limits. -/
def Obligations.Settling : Prop :=
  ∀ (ch : Channel) (c : ChannelId) (r : Sample),
    let good := !(r.flags.parity || r.flags.checkFail || r.flags.coasted || r.flags.idPredicted)
    let number := readValue ch.config.signed
    let agrees := match ch.candidate with
      | none => false
      | some k => decide (|number ch.width r.value - number ch.width k| ≤ ch.settings.deadband)
    let count := if agrees then min (ch.agree + 1) ch.settings.settleCount else 1
    let new : Settled := ⟨r.value, ch.width⟩
    let changes := match ch.settled with
      | none => true
      | some o => decide (number o.width o.value ≠ number ch.width r.value)
    let run : Channel := { ch with candidate := some r.value, agree := count }
    let limit := if ch.settings.limitsEnabled then
        limitMove (readLimit ch.config.signed ch.settings.low) (readLimit ch.config.signed ch.settings.high)
          ch.settings.hysteresis.toNat (number ch.width r.value) ch.limit
      else .normal
    let raised (k : Nat) (n : Raise) : List Raise := if ch.settings.noticeSet.getLsbD k then [n] else []
    ch.settle c r =
      if good = false then ({ ch with agree := 0 }, [])
      else if count ≠ ch.settings.settleCount then (run, [])
      else if changes = false then ({ run with settled := some new }, [])
      else if limit = ch.limit then
        ({ run with settled := some new }, raised 1 (.settled c new (ch.settled.map Settled.value) r.sequence r.stamp))
      else
        ({ run with
            settled := some new, limit := limit
            latches := ch.latches ||| (match limit with
              | .normal => 0
              | .low => 0b0010000
              | .high => 0b0100000) },
          raised 1 (.settled c new (ch.settled.map Settled.value) r.sequence r.stamp)
            ++ raised 2 (.limit c ch.limit limit new .settle))

/-! ### Sample queues (R135, R137, R139 to R146) -/

/-- R139 to R141, R143, R144: the push of a released sample, by the fill: appended with the watermark's test, or an overflow
by the policy, counted, latched and raised. -/
def Obligations.QueuePushed : Prop :=
  ∀ (ch : Channel) (c : ChannelId) (r : Sample),
    let w := ch.queue
    let fill := w.records.length
    let raised (k : Nat) (n : Raise) : List Raise := if ch.settings.noticeSet.getLsbD k then [n] else []
    let dropped := if w.dropped < 65535 then w.dropped + 1 else 65535
    (ch.config.capacity = 0 → ch.push c r = (ch, []))
    ∧ (fill < ch.config.capacity →
      ch.push c r = if 0 < ch.config.watermark ∧ w.flagArmed = true ∧ fill + 1 = ch.config.watermark then
          ({ ch with queue := ⟨w.records ++ [r], w.dropped, false⟩ },
            raised 4 (.queueLevel c (fill + 1) ch.config.watermark r.sequence))
        else ({ ch with queue := ⟨w.records ++ [r], w.dropped, w.flagArmed⟩ }, []))
    ∧ (0 < ch.config.capacity → ch.config.capacity ≤ fill → ch.config.policy = .keepOldest →
      ch.push c r = ({ ch with queue := ⟨w.records, dropped, w.flagArmed⟩, latches := ch.latches ||| 0b1000000 },
        raised 5 (.queueOverflow c .keepOldest r.sequence dropped fill)))
    ∧ ∀ (old : Sample) (kept : List Sample), 0 < ch.config.capacity → ch.config.capacity ≤ fill →
      ch.config.policy = .keepNewest → w.records = old :: kept →
      ch.push c r
        = ({ ch with queue := ⟨kept ++ [r], dropped, w.flagArmed⟩, latches := ch.latches ||| 0b1000000 },
          raised 5 (.queueOverflow c .keepNewest old.sequence dropped fill))

/-- R142, R145, R146: QUEUE_DRAIN, its checks in order, then up to max records from the head, the dropped count reported and
reset, and the re-arm test on the fill now standing. -/
def Obligations.QueueDrained : Prop :=
  ∀ (s : State) (tag channel max : Byte) (rest : List Request),
    let q : Request := ⟨0x28, tag, [channel, max]⟩
    s.fresh q rest →
    (127 < channel.toNat → exec .queueDrain s = .next (s.answered q rest .badValue [0]))
    ∧ ∀ c : ChannelId, channel.toNat = c.val →
      exec .queueDrain s = .next (
        if max = 0 ∨ 12 < max.toNat then s.answered q rest .badValue [1]
        else match s.channel c with
          | none => s.answered q rest .noSuch []
          | some ch =>
            if ch.config.capacity = 0 then s.answered q rest .wrongState []
            else
              let left := ch.queue.records.drop max.toNat
              State.answered
                { s with
                  channels := s.channels.set c.val (some
                    { ch with
                      queue := ⟨left, 0, ch.queue.flagArmed || decide (left.length < ch.config.watermark / 2)⟩ }) }
                q rest .ok
                (be 2 left.length ++ be 2 ch.queue.dropped
                  ++ (ch.queue.records.take max.toNat).flatMap fun r =>
                    be 4 r.sequence.toNat ++ be 4 r.value.toNat
                      ++ [BitVec.ofNat 8 (128 * r.flags.parity.toNat + 64 * r.flags.checkFail.toNat
                          + 32 * r.flags.coasted.toNat + 16 * r.flags.idPredicted.toNat + 8 * r.flags.inverted.toNat),
                        r.frameId]
                      ++ be 4 r.majorCount.toNat ++ be 6 r.stamp.toNat))

/-- R94, R96, R118, R125, R135, R137, R142: every record's fields stay in their ranges and the pool adds up at every step. -/
def Obligations.ChannelsKept : Prop := ∀ s t : State, s.ChannelsLegal → step s = .next t → t.ChannelsLegal

/-! ### Rosters (R151 to R161) -/

/-- R154, R155: ROSTER_SET refuses the first field, in index order, that is out of range or repeats a channel, and otherwise
replaces the list alone. -/
def Obligations.RosterListSet : Prop :=
  ∀ (s : State) (tag roster : Byte) (list : List Byte) (rest : List Request), list.length ≤ 16 →
    let q : Request := ⟨0x30, tag, roster :: list⟩
    s.fresh q rest →
    (3 < roster.toNat → exec .rosterSet s = .next (s.answered q rest .badValue [0]))
    ∧ ∀ r : RosterId, roster.toNat = r.val →
      (∀ (before after : List Byte) (c : Byte), list = before ++ c :: after → before.Nodup → (∀ b ∈ before, b.toNat ≤ 127) →
        127 < c.toNat ∨ c ∈ before →
        exec .rosterSet s = .next (s.answered q rest .badValue [BitVec.ofNat 8 (before.length + 1)]))
      ∧ ∀ channels : List ChannelId, channels.Nodup → list = channels.map (fun c => BitVec.ofNat 8 c.val) →
        exec .rosterSet s = .next (State.answered
          { s with rosters := s.rosters.set r.val { s.roster r with list := channels } } q rest .ok
          [BitVec.ofNat 8 list.length])

/-- R152, R153, R156, R157, R158, section 10.8: ROSTER_READ reports the roster and one entry for each listed channel, in list
order, and changes nothing; ROSTER_START and ROSTER_STOP. -/
def Obligations.RosterRequests : Prop :=
  (∀ (s : State) (tag roster : Byte) (rest : List Request), s.fresh ⟨0x31, tag, [roster]⟩ rest →
     (3 < roster.toNat → exec .rosterRead s = .next (s.answered ⟨0x31, tag, [roster]⟩ rest .badValue [0]))
     ∧ ∀ r : RosterId, roster.toNat = r.val →
       let v := s.roster r
       let entry (c : ChannelId) : List Byte := match s.channel c with
         | none => BitVec.ofNat 8 c.val :: 0b11000000 :: List.replicate 11 0
         | some ch => [BitVec.ofNat 8 c.val,
             BitVec.ofNat 8 (ch.data.reported.code * 64 + ch.limit.code * 16 + if ch.settled.isSome then 8 else 0)]
           ++ (match ch.data.last with
             | none => List.replicate 7 0
             | some x => be 4 x.value.toNat ++ [x.flags.code] ++ be 2 (x.sequence.toNat % 65536))
           ++ be 4 (match ch.settled with
             | none => 0
             | some x => x.value.toNat)
       exec .rosterRead s = .next (s.answered ⟨0x31, tag, [roster]⟩ rest .ok
         ([BitVec.ofNat 8 r.val, BitVec.ofNat 8 v.mode.code, BitVec.ofNat 8 v.stream.index, BitVec.ofNat 8 v.period,
           BitVec.ofNat 8 v.countdown, BitVec.ofNat 8 v.list.length] ++ v.list.flatMap entry)))
    ∧ (∀ (s : State) (tag roster stream period : Byte) (rest : List Request),
     (s.fresh ⟨0x32, tag, [roster, stream, period]⟩ rest →
       let q : Request := ⟨0x32, tag, [roster, stream, period]⟩
       (3 < roster.toNat → exec .rosterStart s = .next (s.answered q rest .badValue [0]))
       ∧ ∀ r : RosterId, roster.toNat = r.val → exec .rosterStart s = .next (
         if 1 < stream.toNat then s.answered q rest .badValue [1]
         else if period = 0 then s.answered q rest .badValue [2]
         else State.answered
           { s with
             rosters := s.rosters.set r.val
               ⟨(s.roster r).list, .periodic, if stream = 0 then .s0 else .s1, period.toNat, period.toNat⟩ }
           q rest .ok []))
     ∧ (s.fresh ⟨0x33, tag, [roster]⟩ rest →
       let q : Request := ⟨0x33, tag, [roster]⟩
       (3 < roster.toNat → exec .rosterStop s = .next (s.answered q rest .badValue [0]))
       ∧ ∀ r : RosterId, roster.toNat = r.val → exec .rosterStop s = .next (State.answered
           { s with
             rosters := s.rosters.set r.val ⟨(s.roster r).list, .idle, (s.roster r).stream, (s.roster r).period, 0⟩ }
           q rest .ok [match (s.roster r).mode with
             | .idle => 0
             | .periodic => 1])))

/-- R159, R160, R161: a major boundary of a stream at the rosters. Each PERIODIC roster of that stream counts down, raises
ROSTER with its snapshot and the boundary's count on reaching 0, in roster number order, and is reloaded; no other changes. -/
def Obligations.RosterBoundary : Prop :=
  ∀ (s : State) (i : StreamId) (count : BitVec 32),
    let counts (r : RosterId) : Bool := decide ((s.roster r).mode = .periodic ∧ (s.roster r).stream = i)
    s.rosterBoundary i count = State.raiseAll
      { s with
        rosters := Vector.ofFn fun r : RosterId =>
          if counts r then
            { s.roster r with
              countdown := if (s.roster r).countdown - 1 = 0 then (s.roster r).period else (s.roster r).countdown - 1 }
          else s.roster r }
      (([0, 1, 2, 3] : List RosterId).flatMap fun r =>
        if counts r = true ∧ (s.roster r).countdown - 1 = 0 then
          [.roster r i count ((s.roster r).list.map s.rosterEntry)] else [])

/-- R151, R159: every roster's list, period and countdown stay in their ranges at every step. -/
def Obligations.RostersKept : Prop :=
  ∀ s t : State, (∀ r, (s.roster r).Legal) → step s = .next t → ∀ r, (t.roster r).Legal

/-! ### Notices (R164 to R177) -/

/-- R168, R169, R170: a raise at the Notice Unit, by the first case that holds. R167: the raises of one step are taken one after
another, and nothing else changes. R178, R180: before a raise that would merge into the head, or finds the queue full, the
transmitter may have begun the head notice if the line is free, nothing waits ahead and a credit is held; whether it has is free
(log 6, counted by log 11). -/
def Obligations.RaiseTaken : Prop :=
  (∀ (n : NoticeUnit) (r : Raise),
    let about (m : Notice) : Bool := decide (m.content.kind = r.kind ∧ m.content.subject = r.subject)
    (n.mask.getLsbD r.kind.index = false → n.take r = n)
    ∧ (∀ (before after : List Notice) (m : Notice), n.mask.getLsbD r.kind.index = true →
      n.queue = before ++ m :: after → about m = true → (∀ x ∈ before ++ after, about x = false) →
      n.take r = { n with queue := before ++ ⟨r, if m.coalesced < 255 then m.coalesced + 1 else 255⟩ :: after })
    ∧ (n.mask.getLsbD r.kind.index = true → (∀ x ∈ n.queue, about x = false) → n.queue.length < 32 →
      n.take r = { n with queue := n.queue ++ [⟨r, 0⟩] })
    ∧ (n.mask.getLsbD r.kind.index = true → (∀ x ∈ n.queue, about x = false) → 32 ≤ n.queue.length →
      n.take r = { n with dropped := if n.dropped < 65535 then n.dropped + 1 else 65535 }))
    ∧ ∀ (s : State) (r : Raise) (rs : List Raise),
      let about (m : Notice) : Bool := decide (m.content.kind = r.kind ∧ m.content.subject = r.subject)
      let taken (u : State) : State := { u with notices := u.notices.take r }
      let mayBegin : Prop := s.tx = none ∧ s.ready = none ∧ s.replies = [] ∧ 0 < s.notices.credits
      let matters : Prop := s.notices.mask.getLsbD r.kind.index = true ∧ ∃ head behind, s.notices.queue = head :: behind
        ∧ (about head = true ∨ 32 ≤ s.notices.queue.length ∧ ∀ x ∈ behind, about x = false)
      s.raiseAll [] = s ∧ s.raiseAll (r :: rs) = State.raiseAll (s.raiseAll [r]) rs
      ∧ (¬ (mayBegin ∧ matters) → s.raiseAll [r] = taken s)
      ∧ (mayBegin → matters → s.raiseAll [r] = taken { s with draws := s.draws + 1 }
        ∨ ∃ u, exec .noticeSend { s with draws := s.draws + 1 } = .next u ∧ s.raiseAll [r] = taken u)

/-- R173, R177: NOTICE_MASK stores the mask and removes the pending notices it disables; NOTICE_GRANT raises the credits to
255 at most. -/
def Obligations.NoticeRequests : Prop :=
  ∀ (s : State) (tag grant : Byte) (mask : BitVec 16) (rest : List Request),
    (s.fresh ⟨0x38, tag, be 2 mask.toNat⟩ rest →
      let kept := s.notices.queue.filter fun m => mask.getLsbD m.content.kind.index
      exec .noticeMask s = .next (if 511 < mask.toNat then s.answered ⟨0x38, tag, be 2 mask.toNat⟩ rest .badValue [0]
        else State.answered { s with notices := { s.notices with mask := mask.setWidth 9, queue := kept } }
          ⟨0x38, tag, be 2 mask.toNat⟩ rest .ok
          (be 2 s.notices.mask.toNat
            ++ [BitVec.ofNat 8 (s.notices.queue.length - kept.length), BitVec.ofNat 8 kept.length])))
    ∧ (s.fresh ⟨0x39, tag, [grant]⟩ rest →
      let credits := if 255 < s.notices.credits + grant.toNat then 255 else s.notices.credits + grant.toNat
      exec .noticeGrant s = .next (State.answered { s with notices := { s.notices with credits := credits } }
        ⟨0x39, tag, [grant]⟩ rest .ok
        ([BitVec.ofNat 8 credits, BitVec.ofNat 8 s.notices.queue.length] ++ be 2 s.notices.dropped)))

/-- R164, R165, R170, R172, R175: the queue's bound, its distinct and enabled notices, the credits and the counts hold at
every step. -/
def Obligations.NoticesKept : Prop := ∀ s t : State, s.notices.Legal → step s = .next t → t.notices.Legal

end Statements
end

