-- ==== Sys2Proof/Laws/State.lean ====
section
/-! SUPPORT. What each named update of State does to each field, and the two views of a per-stream record. -/

namespace Sys2Proof.Machine

/-! ### Per-stream records -/

@[simp] theorem PerStream.get_s0 {α : Type} (p : PerStream α) : p.get .s0 = p.s0 := rfl
@[simp] theorem PerStream.get_s1 {α : Type} (p : PerStream α) : p.get .s1 = p.s1 := rfl

@[simp] theorem PerStream.get_set {α : Type} (p : PerStream α) (i : StreamId) (v : α) : (p.set i v).get i = v := by
  cases i <;> rfl

theorem PerStream.get_set_ne {α : Type} (p : PerStream α) {i j : StreamId} (h : j ≠ i) (v : α) :
    (p.set i v).get j = p.get j := by
  cases i <;> cases j <;> first | rfl | exact absurd rfl h

theorem PerStream.get_set_eq {α : Type} (p : PerStream α) (i j : StreamId) (v : α) :
    (p.set i v).get j = if j = i then v else p.get j := by
  cases i <;> cases j <;> rfl

theorem PerStream.ext_get {α : Type} {p q : PerStream α} (h : ∀ i, p.get i = q.get i) : p = q := by
  have h0 : p.s0 = q.s0 := h .s0
  have h1 : p.s1 = q.s1 := h .s1
  cases p; cases q
  exact congrArg₂ PerStream.mk h0 h1

@[simp] theorem PerStream.set_get {α : Type} (p : PerStream α) (i : StreamId) : p.set i (p.get i) = p := by
  cases i <;> rfl

@[simp] theorem PerStream.set_set {α : Type} (p : PerStream α) (i : StreamId) (v w : α) :
    (p.set i v).set i w = p.set i w := by
  cases i <;> rfl

/-! ### `setSyn` -/

@[simp] theorem State.setSyn_timebase (s : State) (i : StreamId) (y : Syn) :
    (s.setSyn i y).timebase = s.timebase := rfl
@[simp] theorem State.setSyn_linkRate (s : State) (i : StreamId) (y : Syn) :
    (s.setSyn i y).linkRate = s.linkRate := rfl
@[simp] theorem State.setSyn_rx (s : State) (i : StreamId) (y : Syn) : (s.setSyn i y).rx = s.rx := rfl
@[simp] theorem State.setSyn_inbound (s : State) (i : StreamId) (y : Syn) : (s.setSyn i y).inbound = s.inbound := rfl
@[simp] theorem State.setSyn_replies (s : State) (i : StreamId) (y : Syn) : (s.setSyn i y).replies = s.replies := rfl
@[simp] theorem State.setSyn_cache (s : State) (i : StreamId) (y : Syn) : (s.setSyn i y).cache = s.cache := rfl
@[simp] theorem State.setSyn_ready (s : State) (i : StreamId) (y : Syn) : (s.setSyn i y).ready = s.ready := rfl
@[simp] theorem State.setSyn_tx (s : State) (i : StreamId) (y : Syn) : (s.setSyn i y).tx = s.tx := rfl
@[simp] theorem State.setSyn_profiles (s : State) (i : StreamId) (y : Syn) :
    (s.setSyn i y).profiles = s.profiles := rfl
@[simp] theorem State.setSyn_syn (s : State) (i : StreamId) (y : Syn) : (s.setSyn i y).syn = s.syn.set i y := rfl
@[simp] theorem State.setSyn_trk (s : State) (i : StreamId) (y : Syn) : (s.setSyn i y).trk = s.trk := rfl
@[simp] theorem State.setSyn_map (s : State) (i : StreamId) (y : Syn) : (s.setSyn i y).map = s.map := rfl
@[simp] theorem State.setSyn_stage (s : State) (i : StreamId) (y : Syn) : (s.setSyn i y).stage = s.stage := rfl
@[simp] theorem State.setSyn_channels (s : State) (i : StreamId) (y : Syn) :
    (s.setSyn i y).channels = s.channels := rfl
@[simp] theorem State.setSyn_poolFree (s : State) (i : StreamId) (y : Syn) :
    (s.setSyn i y).poolFree = s.poolFree := rfl
@[simp] theorem State.setSyn_rosters (s : State) (i : StreamId) (y : Syn) : (s.setSyn i y).rosters = s.rosters := rfl
@[simp] theorem State.setSyn_notices (s : State) (i : StreamId) (y : Syn) : (s.setSyn i y).notices = s.notices := rfl
@[simp] theorem State.setSyn_draws (s : State) (i : StreamId) (y : Syn) : (s.setSyn i y).draws = s.draws := rfl
@[simp] theorem State.setSyn_pending (s : State) (i : StreamId) (y : Syn) : (s.setSyn i y).pending = s.pending := rfl

/-! ### `setTrk` -/

@[simp] theorem State.setTrk_timebase (s : State) (i : StreamId) (t : Tracker) :
    (s.setTrk i t).timebase = s.timebase := rfl
@[simp] theorem State.setTrk_linkRate (s : State) (i : StreamId) (t : Tracker) :
    (s.setTrk i t).linkRate = s.linkRate := rfl
@[simp] theorem State.setTrk_rx (s : State) (i : StreamId) (t : Tracker) : (s.setTrk i t).rx = s.rx := rfl
@[simp] theorem State.setTrk_inbound (s : State) (i : StreamId) (t : Tracker) :
    (s.setTrk i t).inbound = s.inbound := rfl
@[simp] theorem State.setTrk_replies (s : State) (i : StreamId) (t : Tracker) :
    (s.setTrk i t).replies = s.replies := rfl
@[simp] theorem State.setTrk_cache (s : State) (i : StreamId) (t : Tracker) : (s.setTrk i t).cache = s.cache := rfl
@[simp] theorem State.setTrk_ready (s : State) (i : StreamId) (t : Tracker) : (s.setTrk i t).ready = s.ready := rfl
@[simp] theorem State.setTrk_tx (s : State) (i : StreamId) (t : Tracker) : (s.setTrk i t).tx = s.tx := rfl
@[simp] theorem State.setTrk_profiles (s : State) (i : StreamId) (t : Tracker) :
    (s.setTrk i t).profiles = s.profiles := rfl
@[simp] theorem State.setTrk_syn (s : State) (i : StreamId) (t : Tracker) : (s.setTrk i t).syn = s.syn := rfl
@[simp] theorem State.setTrk_trk (s : State) (i : StreamId) (t : Tracker) : (s.setTrk i t).trk = s.trk.set i t := rfl
@[simp] theorem State.setTrk_map (s : State) (i : StreamId) (t : Tracker) : (s.setTrk i t).map = s.map := rfl
@[simp] theorem State.setTrk_stage (s : State) (i : StreamId) (t : Tracker) : (s.setTrk i t).stage = s.stage := rfl
@[simp] theorem State.setTrk_channels (s : State) (i : StreamId) (t : Tracker) :
    (s.setTrk i t).channels = s.channels := rfl
@[simp] theorem State.setTrk_poolFree (s : State) (i : StreamId) (t : Tracker) :
    (s.setTrk i t).poolFree = s.poolFree := rfl
@[simp] theorem State.setTrk_rosters (s : State) (i : StreamId) (t : Tracker) :
    (s.setTrk i t).rosters = s.rosters := rfl
@[simp] theorem State.setTrk_notices (s : State) (i : StreamId) (t : Tracker) :
    (s.setTrk i t).notices = s.notices := rfl
@[simp] theorem State.setTrk_draws (s : State) (i : StreamId) (t : Tracker) : (s.setTrk i t).draws = s.draws := rfl
@[simp] theorem State.setTrk_pending (s : State) (i : StreamId) (t : Tracker) :
    (s.setTrk i t).pending = s.pending := rfl

/-! ### `setStage` -/

@[simp] theorem State.setStage_timebase (s : State) (i : StreamId) (g : EditStage) :
    (s.setStage i g).timebase = s.timebase := rfl
@[simp] theorem State.setStage_linkRate (s : State) (i : StreamId) (g : EditStage) :
    (s.setStage i g).linkRate = s.linkRate := rfl
@[simp] theorem State.setStage_rx (s : State) (i : StreamId) (g : EditStage) : (s.setStage i g).rx = s.rx := rfl
@[simp] theorem State.setStage_inbound (s : State) (i : StreamId) (g : EditStage) :
    (s.setStage i g).inbound = s.inbound := rfl
@[simp] theorem State.setStage_replies (s : State) (i : StreamId) (g : EditStage) :
    (s.setStage i g).replies = s.replies := rfl
@[simp] theorem State.setStage_cache (s : State) (i : StreamId) (g : EditStage) :
    (s.setStage i g).cache = s.cache := rfl
@[simp] theorem State.setStage_ready (s : State) (i : StreamId) (g : EditStage) :
    (s.setStage i g).ready = s.ready := rfl
@[simp] theorem State.setStage_tx (s : State) (i : StreamId) (g : EditStage) : (s.setStage i g).tx = s.tx := rfl
@[simp] theorem State.setStage_profiles (s : State) (i : StreamId) (g : EditStage) :
    (s.setStage i g).profiles = s.profiles := rfl
@[simp] theorem State.setStage_syn (s : State) (i : StreamId) (g : EditStage) : (s.setStage i g).syn = s.syn := rfl
@[simp] theorem State.setStage_trk (s : State) (i : StreamId) (g : EditStage) : (s.setStage i g).trk = s.trk := rfl
@[simp] theorem State.setStage_map (s : State) (i : StreamId) (g : EditStage) : (s.setStage i g).map = s.map := rfl
@[simp] theorem State.setStage_stage (s : State) (i : StreamId) (g : EditStage) :
    (s.setStage i g).stage = s.stage.set i g := rfl
@[simp] theorem State.setStage_channels (s : State) (i : StreamId) (g : EditStage) :
    (s.setStage i g).channels = s.channels := rfl
@[simp] theorem State.setStage_poolFree (s : State) (i : StreamId) (g : EditStage) :
    (s.setStage i g).poolFree = s.poolFree := rfl
@[simp] theorem State.setStage_rosters (s : State) (i : StreamId) (g : EditStage) :
    (s.setStage i g).rosters = s.rosters := rfl
@[simp] theorem State.setStage_notices (s : State) (i : StreamId) (g : EditStage) :
    (s.setStage i g).notices = s.notices := rfl
@[simp] theorem State.setStage_draws (s : State) (i : StreamId) (g : EditStage) :
    (s.setStage i g).draws = s.draws := rfl
@[simp] theorem State.setStage_pending (s : State) (i : StreamId) (g : EditStage) :
    (s.setStage i g).pending = s.pending := rfl

/-! ### `setProfile` -/

@[simp] theorem State.setProfile_timebase (s : State) (k : Slot) (p : Option Profile) :
    (s.setProfile k p).timebase = s.timebase := rfl
@[simp] theorem State.setProfile_linkRate (s : State) (k : Slot) (p : Option Profile) :
    (s.setProfile k p).linkRate = s.linkRate := rfl
@[simp] theorem State.setProfile_rx (s : State) (k : Slot) (p : Option Profile) : (s.setProfile k p).rx = s.rx := rfl
@[simp] theorem State.setProfile_inbound (s : State) (k : Slot) (p : Option Profile) :
    (s.setProfile k p).inbound = s.inbound := rfl
@[simp] theorem State.setProfile_replies (s : State) (k : Slot) (p : Option Profile) :
    (s.setProfile k p).replies = s.replies := rfl
@[simp] theorem State.setProfile_cache (s : State) (k : Slot) (p : Option Profile) :
    (s.setProfile k p).cache = s.cache := rfl
@[simp] theorem State.setProfile_ready (s : State) (k : Slot) (p : Option Profile) :
    (s.setProfile k p).ready = s.ready := rfl
@[simp] theorem State.setProfile_tx (s : State) (k : Slot) (p : Option Profile) : (s.setProfile k p).tx = s.tx := rfl
@[simp] theorem State.setProfile_profiles (s : State) (k : Slot) (p : Option Profile) :
    (s.setProfile k p).profiles = s.profiles.set k.val p := rfl
@[simp] theorem State.setProfile_syn (s : State) (k : Slot) (p : Option Profile) :
    (s.setProfile k p).syn = s.syn := rfl
@[simp] theorem State.setProfile_trk (s : State) (k : Slot) (p : Option Profile) :
    (s.setProfile k p).trk = s.trk := rfl
@[simp] theorem State.setProfile_map (s : State) (k : Slot) (p : Option Profile) :
    (s.setProfile k p).map = s.map := rfl
@[simp] theorem State.setProfile_stage (s : State) (k : Slot) (p : Option Profile) :
    (s.setProfile k p).stage = s.stage := rfl
@[simp] theorem State.setProfile_channels (s : State) (k : Slot) (p : Option Profile) :
    (s.setProfile k p).channels = s.channels := rfl
@[simp] theorem State.setProfile_poolFree (s : State) (k : Slot) (p : Option Profile) :
    (s.setProfile k p).poolFree = s.poolFree := rfl
@[simp] theorem State.setProfile_rosters (s : State) (k : Slot) (p : Option Profile) :
    (s.setProfile k p).rosters = s.rosters := rfl
@[simp] theorem State.setProfile_notices (s : State) (k : Slot) (p : Option Profile) :
    (s.setProfile k p).notices = s.notices := rfl
@[simp] theorem State.setProfile_draws (s : State) (k : Slot) (p : Option Profile) :
    (s.setProfile k p).draws = s.draws := rfl
@[simp] theorem State.setProfile_pending (s : State) (k : Slot) (p : Option Profile) :
    (s.setProfile k p).pending = s.pending := rfl

/-! ### `setChannel` -/

@[simp] theorem State.setChannel_timebase (s : State) (c : ChannelId) (r : Option Channel) :
    (s.setChannel c r).timebase = s.timebase := rfl
@[simp] theorem State.setChannel_linkRate (s : State) (c : ChannelId) (r : Option Channel) :
    (s.setChannel c r).linkRate = s.linkRate := rfl
@[simp] theorem State.setChannel_rx (s : State) (c : ChannelId) (r : Option Channel) :
    (s.setChannel c r).rx = s.rx := rfl
@[simp] theorem State.setChannel_inbound (s : State) (c : ChannelId) (r : Option Channel) :
    (s.setChannel c r).inbound = s.inbound := rfl
@[simp] theorem State.setChannel_replies (s : State) (c : ChannelId) (r : Option Channel) :
    (s.setChannel c r).replies = s.replies := rfl
@[simp] theorem State.setChannel_cache (s : State) (c : ChannelId) (r : Option Channel) :
    (s.setChannel c r).cache = s.cache := rfl
@[simp] theorem State.setChannel_ready (s : State) (c : ChannelId) (r : Option Channel) :
    (s.setChannel c r).ready = s.ready := rfl
@[simp] theorem State.setChannel_tx (s : State) (c : ChannelId) (r : Option Channel) :
    (s.setChannel c r).tx = s.tx := rfl
@[simp] theorem State.setChannel_profiles (s : State) (c : ChannelId) (r : Option Channel) :
    (s.setChannel c r).profiles = s.profiles := rfl
@[simp] theorem State.setChannel_syn (s : State) (c : ChannelId) (r : Option Channel) :
    (s.setChannel c r).syn = s.syn := rfl
@[simp] theorem State.setChannel_trk (s : State) (c : ChannelId) (r : Option Channel) :
    (s.setChannel c r).trk = s.trk := rfl
@[simp] theorem State.setChannel_map (s : State) (c : ChannelId) (r : Option Channel) :
    (s.setChannel c r).map = s.map := rfl
@[simp] theorem State.setChannel_stage (s : State) (c : ChannelId) (r : Option Channel) :
    (s.setChannel c r).stage = s.stage := rfl
@[simp] theorem State.setChannel_channels (s : State) (c : ChannelId) (r : Option Channel) :
    (s.setChannel c r).channels = s.channels.set c.val r := rfl
@[simp] theorem State.setChannel_poolFree (s : State) (c : ChannelId) (r : Option Channel) :
    (s.setChannel c r).poolFree = s.poolFree := rfl
@[simp] theorem State.setChannel_rosters (s : State) (c : ChannelId) (r : Option Channel) :
    (s.setChannel c r).rosters = s.rosters := rfl
@[simp] theorem State.setChannel_notices (s : State) (c : ChannelId) (r : Option Channel) :
    (s.setChannel c r).notices = s.notices := rfl
@[simp] theorem State.setChannel_draws (s : State) (c : ChannelId) (r : Option Channel) :
    (s.setChannel c r).draws = s.draws := rfl
@[simp] theorem State.setChannel_pending (s : State) (c : ChannelId) (r : Option Channel) :
    (s.setChannel c r).pending = s.pending := rfl

/-! ### `mapChannels` -/

@[simp] theorem State.mapChannels_timebase (s : State) (f : ChannelId → Channel → Channel) :
    (s.mapChannels f).timebase = s.timebase := by
  simp only [State.mapChannels]
@[simp] theorem State.mapChannels_linkRate (s : State) (f : ChannelId → Channel → Channel) :
    (s.mapChannels f).linkRate = s.linkRate := by
  simp only [State.mapChannels]
@[simp] theorem State.mapChannels_rx (s : State) (f : ChannelId → Channel → Channel) :
    (s.mapChannels f).rx = s.rx := by
  simp only [State.mapChannels]
@[simp] theorem State.mapChannels_inbound (s : State) (f : ChannelId → Channel → Channel) :
    (s.mapChannels f).inbound = s.inbound := by
  simp only [State.mapChannels]
@[simp] theorem State.mapChannels_replies (s : State) (f : ChannelId → Channel → Channel) :
    (s.mapChannels f).replies = s.replies := by
  simp only [State.mapChannels]
@[simp] theorem State.mapChannels_cache (s : State) (f : ChannelId → Channel → Channel) :
    (s.mapChannels f).cache = s.cache := by
  simp only [State.mapChannels]
@[simp] theorem State.mapChannels_ready (s : State) (f : ChannelId → Channel → Channel) :
    (s.mapChannels f).ready = s.ready := by
  simp only [State.mapChannels]
@[simp] theorem State.mapChannels_tx (s : State) (f : ChannelId → Channel → Channel) :
    (s.mapChannels f).tx = s.tx := by
  simp only [State.mapChannels]
@[simp] theorem State.mapChannels_profiles (s : State) (f : ChannelId → Channel → Channel) :
    (s.mapChannels f).profiles = s.profiles := by
  simp only [State.mapChannels]
@[simp] theorem State.mapChannels_syn (s : State) (f : ChannelId → Channel → Channel) :
    (s.mapChannels f).syn = s.syn := by
  simp only [State.mapChannels]
@[simp] theorem State.mapChannels_trk (s : State) (f : ChannelId → Channel → Channel) :
    (s.mapChannels f).trk = s.trk := by
  simp only [State.mapChannels]
@[simp] theorem State.mapChannels_map (s : State) (f : ChannelId → Channel → Channel) :
    (s.mapChannels f).map = s.map := by
  simp only [State.mapChannels]
@[simp] theorem State.mapChannels_stage (s : State) (f : ChannelId → Channel → Channel) :
    (s.mapChannels f).stage = s.stage := by
  simp only [State.mapChannels]
@[simp] theorem State.mapChannels_channels (s : State) (f : ChannelId → Channel → Channel) :
    (s.mapChannels f).channels = Vector.ofFn fun c => (s.channel c).map (f c) := by
  simp only [State.mapChannels]
@[simp] theorem State.mapChannels_poolFree (s : State) (f : ChannelId → Channel → Channel) :
    (s.mapChannels f).poolFree = s.poolFree := by
  simp only [State.mapChannels]
@[simp] theorem State.mapChannels_rosters (s : State) (f : ChannelId → Channel → Channel) :
    (s.mapChannels f).rosters = s.rosters := by
  simp only [State.mapChannels]
@[simp] theorem State.mapChannels_notices (s : State) (f : ChannelId → Channel → Channel) :
    (s.mapChannels f).notices = s.notices := by
  simp only [State.mapChannels]
@[simp] theorem State.mapChannels_draws (s : State) (f : ChannelId → Channel → Channel) :
    (s.mapChannels f).draws = s.draws := by
  simp only [State.mapChannels]
@[simp] theorem State.mapChannels_pending (s : State) (f : ChannelId → Channel → Channel) :
    (s.mapChannels f).pending = s.pending := by
  simp only [State.mapChannels]

/-! ### `setRoster` -/

@[simp] theorem State.setRoster_timebase (s : State) (r : RosterId) (v : Roster) :
    (s.setRoster r v).timebase = s.timebase := rfl
@[simp] theorem State.setRoster_linkRate (s : State) (r : RosterId) (v : Roster) :
    (s.setRoster r v).linkRate = s.linkRate := rfl
@[simp] theorem State.setRoster_rx (s : State) (r : RosterId) (v : Roster) : (s.setRoster r v).rx = s.rx := rfl
@[simp] theorem State.setRoster_inbound (s : State) (r : RosterId) (v : Roster) :
    (s.setRoster r v).inbound = s.inbound := rfl
@[simp] theorem State.setRoster_replies (s : State) (r : RosterId) (v : Roster) :
    (s.setRoster r v).replies = s.replies := rfl
@[simp] theorem State.setRoster_cache (s : State) (r : RosterId) (v : Roster) :
    (s.setRoster r v).cache = s.cache := rfl
@[simp] theorem State.setRoster_ready (s : State) (r : RosterId) (v : Roster) :
    (s.setRoster r v).ready = s.ready := rfl
@[simp] theorem State.setRoster_tx (s : State) (r : RosterId) (v : Roster) : (s.setRoster r v).tx = s.tx := rfl
@[simp] theorem State.setRoster_profiles (s : State) (r : RosterId) (v : Roster) :
    (s.setRoster r v).profiles = s.profiles := rfl
@[simp] theorem State.setRoster_syn (s : State) (r : RosterId) (v : Roster) : (s.setRoster r v).syn = s.syn := rfl
@[simp] theorem State.setRoster_trk (s : State) (r : RosterId) (v : Roster) : (s.setRoster r v).trk = s.trk := rfl
@[simp] theorem State.setRoster_map (s : State) (r : RosterId) (v : Roster) : (s.setRoster r v).map = s.map := rfl
@[simp] theorem State.setRoster_stage (s : State) (r : RosterId) (v : Roster) :
    (s.setRoster r v).stage = s.stage := rfl
@[simp] theorem State.setRoster_channels (s : State) (r : RosterId) (v : Roster) :
    (s.setRoster r v).channels = s.channels := rfl
@[simp] theorem State.setRoster_poolFree (s : State) (r : RosterId) (v : Roster) :
    (s.setRoster r v).poolFree = s.poolFree := rfl
@[simp] theorem State.setRoster_rosters (s : State) (r : RosterId) (v : Roster) :
    (s.setRoster r v).rosters = s.rosters.set r.val v := rfl
@[simp] theorem State.setRoster_notices (s : State) (r : RosterId) (v : Roster) :
    (s.setRoster r v).notices = s.notices := rfl
@[simp] theorem State.setRoster_draws (s : State) (r : RosterId) (v : Roster) :
    (s.setRoster r v).draws = s.draws := rfl
@[simp] theorem State.setRoster_pending (s : State) (r : RosterId) (v : Roster) :
    (s.setRoster r v).pending = s.pending := rfl

/-! ### Sends inside a step and raises -/

/-- R178, R195: when the transmitter's choice is a notice. -/
theorem State.nextFrame_notice (s : State) : s.nextFrame = some .notice ↔
    s.tx = none ∧ s.ready = none ∧ s.replies = [] ∧ s.notices.queue ≠ [] ∧ 0 < s.notices.credits := by
  unfold State.nextFrame
  cases s.tx <;> cases s.ready <;> by_cases hr : s.replies = [] <;> simp [hr]

/-- R178: what a send can do: nothing, when it is not the transmitter's choice, or the head notice leaves the queue against a
credit. -/
theorem State.noticeSend_cases (s : State) :
    (s.nextFrame ≠ some .notice ∧ s.noticeSend = s)
    ∨ ∃ n rest, s.nextFrame = some .notice ∧ s.notices.queue = n :: rest ∧ s.noticeSend = { s with
        notices :=
          { s.notices with
            queue := rest, credits := s.notices.credits - 1, nextSeq := s.notices.nextSeq + 1, dropped := 0 }
        tx := some (linkFrame (n.body s.draws s.notices.nextSeq s.notices.dropped))
        draws := s.draws + 1 } := by
  unfold State.noticeSend
  split
  · rename_i h
    cases hq : s.notices.queue with
    | nil => exact absurd hq ((State.nextFrame_notice s).1 h).2.2.2.1
    | cons n rest => exact .inr ⟨n, rest, h, rfl, rfl⟩
  · rename_i h
    exact .inl ⟨h, rfl⟩

/-- R178, R180: what a point inside a step at which a notice may be sent can do. -/
theorem State.sendInside_cases (s : State) :
    (s.nextFrame ≠ some .notice ∧ s.sendInside = s)
    ∨ s.nextFrame = some .notice ∧ (s.sendInside = { s with draws := s.draws + 1 }
        ∨ s.sendInside = { s with draws := s.draws + 1 }.noticeSend) := by
  unfold State.sendInside
  split
  · rename_i h
    refine .inr ⟨h, ?_⟩
    split
    · exact .inr rfl
    · exact .inl rfl
  · rename_i h
    exact .inl ⟨h, rfl⟩

/-- A send touches the Notice Unit, the line and the count of free values alone. -/
theorem State.sendInside_frame (s : State) :
    ∃ n x d, s.sendInside = { s with notices := n, tx := x, draws := d } := by
  rcases s.sendInside_cases with ⟨-, h⟩ | ⟨-, h | h⟩ <;> rw [h]
  · exact ⟨_, _, _, rfl⟩
  · exact ⟨_, _, _, rfl⟩
  · rcases State.noticeSend_cases { s with draws := s.draws + 1 } with ⟨-, e⟩ | ⟨n, rest, -, -, e⟩ <;> rw [e]
    · exact ⟨_, _, _, rfl⟩
    · exact ⟨_, _, _, rfl⟩

/-- R168, R178: what one raise can do: a send before it, where that matters, and the raise at the Notice Unit. -/
theorem State.raiseOne_cases (s : State) (r : Raise) :
    s.raiseOne r = { s with notices := s.notices.take r }
    ∨ s.notices.sendMatters r = true ∧ s.raiseOne r = { s.sendInside with notices := s.sendInside.notices.take r } := by
  unfold State.raiseOne
  cases h : s.notices.sendMatters r with
  | false => exact .inl rfl
  | true => exact .inr ⟨rfl, rfl⟩

@[simp] theorem State.raiseAll_nil (s : State) : s.raiseAll [] = s := rfl

@[simp] theorem State.raiseAll_cons (s : State) (r : Raise) (rs : List Raise) :
    s.raiseAll (r :: rs) = (s.raiseOne r).raiseAll rs := rfl

theorem State.raiseAll_append (s : State) (rs ts : List Raise) : s.raiseAll (rs ++ ts) = (s.raiseAll rs).raiseAll ts := by
  simp [State.raiseAll]

/-- Raises touch the Notice Unit, the line and the count of free values alone. -/
theorem State.raiseAll_frame (s : State) (rs : List Raise) :
    ∃ n x d, s.raiseAll rs = { s with notices := n, tx := x, draws := d } := by
  induction rs generalizing s with
  | nil => exact ⟨s.notices, s.tx, s.draws, rfl⟩
  | cons r rs ih =>
    obtain ⟨n, x, d, h⟩ := ih (s.raiseOne r)
    refine ⟨n, x, d, ?_⟩
    rw [State.raiseAll_cons, h]
    rcases s.raiseOne_cases r with e | ⟨-, e⟩ <;> rw [e]
    obtain ⟨n', x', d', h'⟩ := s.sendInside_frame
    rw [h']

theorem State.raiseAll_eq (s : State) (rs : List Raise) : s.raiseAll rs =
    { s with notices := (s.raiseAll rs).notices, tx := (s.raiseAll rs).tx, draws := (s.raiseAll rs).draws } := by
  obtain ⟨n, x, d, h⟩ := s.raiseAll_frame rs
  rw [h]

/-- The two states agree in all that a send and a raise read. -/
abbrev State.alike (s u : State) : Prop :=
  s.notices = u.notices ∧ s.tx = u.tx ∧ s.ready = u.ready ∧ s.replies = u.replies ∧ s.draws = u.draws

theorem State.noticeSend_alike {s u : State} (h : s.alike u) : s.noticeSend.alike u.noticeSend := by
  obtain ⟨hn, hx, hy, hz, hd⟩ := h
  have hc : s.nextFrame = u.nextFrame := by simp only [State.nextFrame, hn, hx, hy, hz]
  unfold State.noticeSend
  rw [hc, hn]
  split
  · split
    · exact ⟨rfl, by rw [hd], hy, hz, by rw [hd]⟩
    · exact ⟨hn, hx, hy, hz, hd⟩
  · exact ⟨hn, hx, hy, hz, hd⟩

theorem State.sendInside_alike {s u : State} (h : s.alike u) : s.sendInside.alike u.sendInside := by
  obtain ⟨hn, hx, hy, hz, hd⟩ := h
  have hc : s.nextFrame = u.nextFrame := by simp only [State.nextFrame, hn, hx, hy, hz]
  have count : State.alike { s with draws := s.draws + 1 } { u with draws := u.draws + 1 } := ⟨hn, hx, hy, hz, by rw [hd]⟩
  unfold State.sendInside
  rw [hc, ← hd]
  split
  · split
    · exact State.noticeSend_alike (hd ▸ count)
    · exact hd ▸ count
  · exact ⟨hn, hx, hy, hz, hd⟩

theorem State.raiseAll_alike {s u : State} (h : s.alike u) (rs : List Raise) : (s.raiseAll rs).alike (u.raiseAll rs) := by
  induction rs generalizing s u with
  | nil => exact h
  | cons r rs ih =>
    refine ih ?_
    have hi := State.sendInside_alike h
    unfold State.raiseOne
    rw [h.1]
    dsimp only
    split
    · exact ⟨by rw [hi.1], hi.2⟩
    · exact ⟨by rw [h.1], h.2⟩

/-- Raises do the same to two states that agree in what they read. -/
theorem State.raiseAll_of_alike {s u : State} (h : s.alike u) (rs : List Raise) : s.raiseAll rs =
    { s with notices := (u.raiseAll rs).notices, tx := (u.raiseAll rs).tx, draws := (u.raiseAll rs).draws } := by
  rw [State.raiseAll_eq, (State.raiseAll_alike h rs).1, (State.raiseAll_alike h rs).2.1, (State.raiseAll_alike h rs).2.2.2.2]

/-- A property that a raise at the Notice Unit, a send and the count of free values keep is kept by raises. -/
theorem State.raiseAll_keeps {P : State → Prop} (hr : ∀ s r, P s → P { s with notices := s.notices.take r })
    (hs : ∀ s, P s → P s.sendInside) {s : State} (h : P s) (rs : List Raise) : P (s.raiseAll rs) := by
  induction rs generalizing s with
  | nil => exact h
  | cons r rs ih =>
    refine ih ?_
    rcases s.raiseOne_cases r with e | ⟨-, e⟩ <;> rw [e]
    · exact hr _ _ h
    · exact hr _ _ (hs _ h)

/-- Where the transmitter can begin no notice, raises are taken by the Notice Unit one after another, and nothing else. -/
theorem State.raiseAll_held {s : State} (h : s.tx ≠ none ∨ s.ready ≠ none ∨ s.replies ≠ [] ∨ s.notices.credits = 0)
    (rs : List Raise) : s.raiseAll rs = { s with notices := rs.foldl NoticeUnit.take s.notices } := by
  induction rs generalizing s with
  | nil => rfl
  | cons r rs ih =>
    have hn : s.nextFrame ≠ some .notice := by
      intro hc
      obtain ⟨hx, hy, hz, -, hk⟩ := (State.nextFrame_notice s).1 hc
      rcases h with h | h | h | h
      · exact h hx
      · exact h hy
      · exact h hz
      · omega
    have e : s.raiseOne r = { s with notices := s.notices.take r } := by
      rcases s.raiseOne_cases r with e | ⟨-, e⟩
      · exact e
      · rcases s.sendInside_cases with ⟨-, e'⟩ | ⟨hc, -⟩
        · rw [e, e']
        · exact absurd hc hn
    rw [State.raiseAll_cons, e]
    refine ih ?_
    rcases h with h | h | h | h
    · exact .inl h
    · exact .inr (.inl h)
    · exact .inr (.inr (.inl h))
    · refine .inr (.inr (.inr ?_))
      show (s.notices.take r).credits = 0
      rw [← h]
      unfold NoticeUnit.take
      split
      · rfl
      · split
        · rfl
        · split <;> rfl

@[simp] theorem State.sendInside_timebase (s : State) : s.sendInside.timebase = s.timebase := by
  obtain ⟨n, x, d, h⟩ := s.sendInside_frame
  rw [h]

@[simp] theorem State.sendInside_linkRate (s : State) : s.sendInside.linkRate = s.linkRate := by
  obtain ⟨n, x, d, h⟩ := s.sendInside_frame
  rw [h]

@[simp] theorem State.sendInside_rx (s : State) : s.sendInside.rx = s.rx := by
  obtain ⟨n, x, d, h⟩ := s.sendInside_frame
  rw [h]

@[simp] theorem State.sendInside_inbound (s : State) : s.sendInside.inbound = s.inbound := by
  obtain ⟨n, x, d, h⟩ := s.sendInside_frame
  rw [h]

@[simp] theorem State.sendInside_replies (s : State) : s.sendInside.replies = s.replies := by
  obtain ⟨n, x, d, h⟩ := s.sendInside_frame
  rw [h]

@[simp] theorem State.sendInside_cache (s : State) : s.sendInside.cache = s.cache := by
  obtain ⟨n, x, d, h⟩ := s.sendInside_frame
  rw [h]

@[simp] theorem State.sendInside_ready (s : State) : s.sendInside.ready = s.ready := by
  obtain ⟨n, x, d, h⟩ := s.sendInside_frame
  rw [h]

@[simp] theorem State.sendInside_profiles (s : State) : s.sendInside.profiles = s.profiles := by
  obtain ⟨n, x, d, h⟩ := s.sendInside_frame
  rw [h]

@[simp] theorem State.sendInside_syn (s : State) : s.sendInside.syn = s.syn := by
  obtain ⟨n, x, d, h⟩ := s.sendInside_frame
  rw [h]

@[simp] theorem State.sendInside_trk (s : State) : s.sendInside.trk = s.trk := by
  obtain ⟨n, x, d, h⟩ := s.sendInside_frame
  rw [h]

@[simp] theorem State.sendInside_map (s : State) : s.sendInside.map = s.map := by
  obtain ⟨n, x, d, h⟩ := s.sendInside_frame
  rw [h]

@[simp] theorem State.sendInside_stage (s : State) : s.sendInside.stage = s.stage := by
  obtain ⟨n, x, d, h⟩ := s.sendInside_frame
  rw [h]

@[simp] theorem State.sendInside_channels (s : State) : s.sendInside.channels = s.channels := by
  obtain ⟨n, x, d, h⟩ := s.sendInside_frame
  rw [h]

@[simp] theorem State.sendInside_poolFree (s : State) : s.sendInside.poolFree = s.poolFree := by
  obtain ⟨n, x, d, h⟩ := s.sendInside_frame
  rw [h]

@[simp] theorem State.sendInside_rosters (s : State) : s.sendInside.rosters = s.rosters := by
  obtain ⟨n, x, d, h⟩ := s.sendInside_frame
  rw [h]

@[simp] theorem State.sendInside_pending (s : State) : s.sendInside.pending = s.pending := by
  obtain ⟨n, x, d, h⟩ := s.sendInside_frame
  rw [h]

@[simp] theorem State.raiseAll_timebase (s : State) (rs : List Raise) : (s.raiseAll rs).timebase = s.timebase := by
  obtain ⟨n, x, d, h⟩ := s.raiseAll_frame rs
  rw [h]

@[simp] theorem State.raiseAll_linkRate (s : State) (rs : List Raise) : (s.raiseAll rs).linkRate = s.linkRate := by
  obtain ⟨n, x, d, h⟩ := s.raiseAll_frame rs
  rw [h]

@[simp] theorem State.raiseAll_rx (s : State) (rs : List Raise) : (s.raiseAll rs).rx = s.rx := by
  obtain ⟨n, x, d, h⟩ := s.raiseAll_frame rs
  rw [h]

@[simp] theorem State.raiseAll_inbound (s : State) (rs : List Raise) : (s.raiseAll rs).inbound = s.inbound := by
  obtain ⟨n, x, d, h⟩ := s.raiseAll_frame rs
  rw [h]

@[simp] theorem State.raiseAll_replies (s : State) (rs : List Raise) : (s.raiseAll rs).replies = s.replies := by
  obtain ⟨n, x, d, h⟩ := s.raiseAll_frame rs
  rw [h]

@[simp] theorem State.raiseAll_cache (s : State) (rs : List Raise) : (s.raiseAll rs).cache = s.cache := by
  obtain ⟨n, x, d, h⟩ := s.raiseAll_frame rs
  rw [h]

@[simp] theorem State.raiseAll_ready (s : State) (rs : List Raise) : (s.raiseAll rs).ready = s.ready := by
  obtain ⟨n, x, d, h⟩ := s.raiseAll_frame rs
  rw [h]

@[simp] theorem State.raiseAll_profiles (s : State) (rs : List Raise) : (s.raiseAll rs).profiles = s.profiles := by
  obtain ⟨n, x, d, h⟩ := s.raiseAll_frame rs
  rw [h]

@[simp] theorem State.raiseAll_syn (s : State) (rs : List Raise) : (s.raiseAll rs).syn = s.syn := by
  obtain ⟨n, x, d, h⟩ := s.raiseAll_frame rs
  rw [h]

@[simp] theorem State.raiseAll_trk (s : State) (rs : List Raise) : (s.raiseAll rs).trk = s.trk := by
  obtain ⟨n, x, d, h⟩ := s.raiseAll_frame rs
  rw [h]

@[simp] theorem State.raiseAll_map (s : State) (rs : List Raise) : (s.raiseAll rs).map = s.map := by
  obtain ⟨n, x, d, h⟩ := s.raiseAll_frame rs
  rw [h]

@[simp] theorem State.raiseAll_stage (s : State) (rs : List Raise) : (s.raiseAll rs).stage = s.stage := by
  obtain ⟨n, x, d, h⟩ := s.raiseAll_frame rs
  rw [h]

@[simp] theorem State.raiseAll_channels (s : State) (rs : List Raise) : (s.raiseAll rs).channels = s.channels := by
  obtain ⟨n, x, d, h⟩ := s.raiseAll_frame rs
  rw [h]

@[simp] theorem State.raiseAll_poolFree (s : State) (rs : List Raise) : (s.raiseAll rs).poolFree = s.poolFree := by
  obtain ⟨n, x, d, h⟩ := s.raiseAll_frame rs
  rw [h]

@[simp] theorem State.raiseAll_rosters (s : State) (rs : List Raise) : (s.raiseAll rs).rosters = s.rosters := by
  obtain ⟨n, x, d, h⟩ := s.raiseAll_frame rs
  rw [h]

@[simp] theorem State.raiseAll_pending (s : State) (rs : List Raise) : (s.raiseAll rs).pending = s.pending := by
  obtain ⟨n, x, d, h⟩ := s.raiseAll_frame rs
  rw [h]

/-! ### `answer` -/

@[simp] theorem State.answer_timebase (s : State) (q : Request) (r : Reply) :
    (s.answer q r).timebase = s.timebase := rfl
@[simp] theorem State.answer_linkRate (s : State) (q : Request) (r : Reply) :
    (s.answer q r).linkRate = s.linkRate := rfl
@[simp] theorem State.answer_rx (s : State) (q : Request) (r : Reply) : (s.answer q r).rx = s.rx := rfl
@[simp] theorem State.answer_inbound (s : State) (q : Request) (r : Reply) : (s.answer q r).inbound = s.inbound := rfl
@[simp] theorem State.answer_replies (s : State) (q : Request) (r : Reply) :
    (s.answer q r).replies = s.replies ++ [r.body q] := rfl
@[simp] theorem State.answer_cache (s : State) (q : Request) (r : Reply) :
    (s.answer q r).cache = placeInCache s.cache ⟨q.tag, q.kind, r.body q⟩ := rfl
@[simp] theorem State.answer_ready (s : State) (q : Request) (r : Reply) : (s.answer q r).ready = s.ready := rfl
@[simp] theorem State.answer_tx (s : State) (q : Request) (r : Reply) : (s.answer q r).tx = s.tx := rfl
@[simp] theorem State.answer_profiles (s : State) (q : Request) (r : Reply) :
    (s.answer q r).profiles = s.profiles := rfl
@[simp] theorem State.answer_syn (s : State) (q : Request) (r : Reply) : (s.answer q r).syn = s.syn := rfl
@[simp] theorem State.answer_trk (s : State) (q : Request) (r : Reply) : (s.answer q r).trk = s.trk := rfl
@[simp] theorem State.answer_map (s : State) (q : Request) (r : Reply) : (s.answer q r).map = s.map := rfl
@[simp] theorem State.answer_stage (s : State) (q : Request) (r : Reply) : (s.answer q r).stage = s.stage := rfl
@[simp] theorem State.answer_channels (s : State) (q : Request) (r : Reply) :
    (s.answer q r).channels = s.channels := rfl
@[simp] theorem State.answer_poolFree (s : State) (q : Request) (r : Reply) :
    (s.answer q r).poolFree = s.poolFree := rfl
@[simp] theorem State.answer_rosters (s : State) (q : Request) (r : Reply) : (s.answer q r).rosters = s.rosters := rfl
@[simp] theorem State.answer_notices (s : State) (q : Request) (r : Reply) : (s.answer q r).notices = s.notices := rfl
@[simp] theorem State.answer_draws (s : State) (q : Request) (r : Reply) : (s.answer q r).draws = s.draws := rfl
@[simp] theorem State.answer_pending (s : State) (q : Request) (r : Reply) : (s.answer q r).pending = s.pending := rfl

/-! ### `answerAgain` -/

@[simp] theorem State.answerAgain_timebase (s : State) (e : CacheEntry) :
    (s.answerAgain e).timebase = s.timebase := rfl
@[simp] theorem State.answerAgain_linkRate (s : State) (e : CacheEntry) :
    (s.answerAgain e).linkRate = s.linkRate := rfl
@[simp] theorem State.answerAgain_rx (s : State) (e : CacheEntry) : (s.answerAgain e).rx = s.rx := rfl
@[simp] theorem State.answerAgain_inbound (s : State) (e : CacheEntry) : (s.answerAgain e).inbound = s.inbound := rfl
@[simp] theorem State.answerAgain_replies (s : State) (e : CacheEntry) :
    (s.answerAgain e).replies = s.replies ++ [e.body] := rfl
@[simp] theorem State.answerAgain_cache (s : State) (e : CacheEntry) : (s.answerAgain e).cache = s.cache := rfl
@[simp] theorem State.answerAgain_ready (s : State) (e : CacheEntry) : (s.answerAgain e).ready = s.ready := rfl
@[simp] theorem State.answerAgain_tx (s : State) (e : CacheEntry) : (s.answerAgain e).tx = s.tx := rfl
@[simp] theorem State.answerAgain_profiles (s : State) (e : CacheEntry) :
    (s.answerAgain e).profiles = s.profiles := rfl
@[simp] theorem State.answerAgain_syn (s : State) (e : CacheEntry) : (s.answerAgain e).syn = s.syn := rfl
@[simp] theorem State.answerAgain_trk (s : State) (e : CacheEntry) : (s.answerAgain e).trk = s.trk := rfl
@[simp] theorem State.answerAgain_map (s : State) (e : CacheEntry) : (s.answerAgain e).map = s.map := rfl
@[simp] theorem State.answerAgain_stage (s : State) (e : CacheEntry) : (s.answerAgain e).stage = s.stage := rfl
@[simp] theorem State.answerAgain_channels (s : State) (e : CacheEntry) :
    (s.answerAgain e).channels = s.channels := rfl
@[simp] theorem State.answerAgain_poolFree (s : State) (e : CacheEntry) :
    (s.answerAgain e).poolFree = s.poolFree := rfl
@[simp] theorem State.answerAgain_rosters (s : State) (e : CacheEntry) : (s.answerAgain e).rosters = s.rosters := rfl
@[simp] theorem State.answerAgain_notices (s : State) (e : CacheEntry) : (s.answerAgain e).notices = s.notices := rfl
@[simp] theorem State.answerAgain_draws (s : State) (e : CacheEntry) : (s.answerAgain e).draws = s.draws := rfl
@[simp] theorem State.answerAgain_pending (s : State) (e : CacheEntry) : (s.answerAgain e).pending = s.pending := rfl

/-! ### Reading a slot, a channel or a roster back -/

theorem State.profile_eq (s : State) (k : Slot) : s.profile k = s.profiles[k.val] := rfl
theorem State.channel_eq (s : State) (c : ChannelId) : s.channel c = s.channels[c.val] := rfl
theorem State.roster_eq (s : State) (r : RosterId) : s.roster r = s.rosters[r.val] := rfl

theorem State.profile_congr {s t : State} (h : t.profiles = s.profiles) (k : Slot) : t.profile k = s.profile k := by
  simp only [State.profile_eq, h]

theorem State.channel_congr {s t : State} (h : t.channels = s.channels) (c : ChannelId) : t.channel c = s.channel c := by
  simp only [State.channel_eq, h]

theorem State.roster_congr {s t : State} (h : t.rosters = s.rosters) (r : RosterId) : t.roster r = s.roster r := by
  simp only [State.roster_eq, h]

theorem State.profile_setProfile (s : State) (k j : Slot) (p : Option Profile) :
    (s.setProfile k p).profile j = if j = k then p else s.profile j := by
  simp only [State.profile_eq, State.setProfile_profiles, Vector.getElem_set]
  by_cases h : j = k
  · subst h; simp
  · rw [if_neg (fun e => h (Fin.ext e.symm)), if_neg h]

theorem State.channel_setChannel (s : State) (c d : ChannelId) (r : Option Channel) :
    (s.setChannel c r).channel d = if d = c then r else s.channel d := by
  simp only [State.channel_eq, State.setChannel_channels, Vector.getElem_set]
  by_cases h : d = c
  · subst h; simp
  · rw [if_neg (fun e => h (Fin.ext e.symm)), if_neg h]

@[simp] theorem State.channel_mapChannels (s : State) (f : ChannelId → Channel → Channel) (c : ChannelId) :
    (s.mapChannels f).channel c = (s.channel c).map (f c) := by
  simp [State.channel_eq]

theorem State.roster_setRoster (s : State) (r k : RosterId) (v : Roster) :
    (s.setRoster r v).roster k = if k = r then v else s.roster k := by
  simp only [State.roster_eq, State.setRoster_rosters, Vector.getElem_set]
  by_cases h : k = r
  · subst h; simp
  · rw [if_neg (fun e => h (Fin.ext e.symm)), if_neg h]

end Sys2Proof.Machine
end

