-- ==== Sys2Proof/Laws/Wire.lean ====
section
/-! SUPPORT. Big-endian fields: their length, and that a field written is the field read back. -/

namespace Sys2Proof.Machine

@[simp] theorem be_length (n v : Nat) : (be n v).length = n := by
  induction n generalizing v with
  | zero => rfl
  | succ n ih => simp [be, ih]

@[simp] theorem byte_length (v : Nat) : (byte v).length = 1 := rfl

@[simp] theorem yesNo_length (b : Bool) : (yesNo b).length = 1 := rfl

theorem byte_eq_be (v : Nat) : byte v = be 1 v := rfl

@[simp] theorem readBE_nil : readBE [] = 0 := rfl

theorem readBE_append_byte (bs : List Byte) (b : Byte) : readBE (bs ++ [b]) = readBE bs * 256 + b.toNat := by
  simp [readBE]

theorem foldl_byte (bs : List Byte) (acc : Nat) :
    bs.foldl (fun a b => a * 256 + b.toNat) acc = acc * 256 ^ bs.length + readBE bs := by
  induction bs using List.reverseRecOn generalizing acc with
  | nil => simp
  | append_singleton bs b ih =>
    rw [List.foldl_append, ih, readBE_append_byte]
    simp only [List.foldl_cons, List.foldl_nil, List.length_append, List.length_singleton, pow_succ]
    ring

theorem readBE_append (as bs : List Byte) : readBE (as ++ bs) = readBE as * 256 ^ bs.length + readBE bs := by
  unfold readBE
  rw [List.foldl_append, foldl_byte]
  rfl

/-- R203: a field read back is the number written, as far as the field's size holds it. -/
theorem readBE_be (n v : Nat) : readBE (be n v) = v % 256 ^ n := by
  induction n generalizing v with
  | zero => simp [be, Nat.mod_one]
  | succ n ih =>
    rw [be, readBE_append_byte, ih]
    rw [BitVec.toNat_ofNat, pow_succ' 256 n, Nat.mod_mul]
    omega

theorem readBE_be_of_lt {n v : Nat} (h : v < 256 ^ n) : readBE (be n v) = v := by
  rw [readBE_be, Nat.mod_eq_of_lt h]

theorem readBE_lt (bs : List Byte) : readBE bs < 256 ^ bs.length := by
  induction bs using List.reverseRecOn with
  | nil => simp
  | append_singleton bs b ih =>
    rw [readBE_append_byte, List.length_append, List.length_singleton, pow_succ]
    have hb := b.isLt
    have h1 : readBE bs + 1 ≤ 256 ^ bs.length := ih
    calc readBE bs * 256 + b.toNat < readBE bs * 256 + 256 := by omega
      _ = (readBE bs + 1) * 256 := by ring
      _ ≤ 256 ^ bs.length * 256 := Nat.mul_le_mul_right _ h1

/-- A field of `size` bytes is below `256 ^ size`. -/
theorem fieldAt_lt (p : List Byte) (offset size : Nat) : fieldAt p offset size < 256 ^ size := by
  unfold fieldAt
  refine lt_of_lt_of_le (readBE_lt _) (Nat.pow_le_pow_right (by decide) ?_)
  rw [List.length_take]
  exact Nat.min_le_left _ _

/-- The field at an offset, past the bytes that stand before it. -/
theorem fieldAt_append_right (as bs : List Byte) (k size : Nat) :
    fieldAt (as ++ bs) (as.length + k) size = fieldAt bs k size := by
  unfold fieldAt
  rw [← List.drop_drop, List.drop_left]

theorem fieldAt_append_left (as bs : List Byte) {size : Nat} (h : as.length = size) :
    fieldAt (as ++ bs) 0 size = readBE as := by
  unfold fieldAt
  rw [List.drop_zero, ← h, List.take_left]

end Sys2Proof.Machine
end

