-- ==== Sys2Proof/Laws/Channels.lean ====
section
/-! SUPPORT. The channel record: what settling, limits, the queue push, a release and the requests do to it, and that each
keeps it legal. -/

namespace Sys2Proof.Machine

/-! ### Limits (R125 to R130) -/

/-- What an evaluation can do: only the limit state and the latches move. -/
theorem Channel.evaluate_eq (ch : Channel) (c : ChannelId) (cause : LimitCause) :
    ∃ l L, (ch.evaluate c cause).1 = { ch with limit := l, latches := L }
      ∧ (ch.settled = none → l = ch.limit)
      ∧ (ch.settings.limitsEnabled = false → ch.settled ≠ none → l = .normal) := by
  rcases Option.eq_none_or_eq_some ch.settled with hs | ⟨v, hs⟩
  · have e : ch.evaluate c cause = (ch, []) := by simp [Channel.evaluate, hs]
    exact ⟨ch.limit, ch.latches, by rw [e], fun _ => rfl, fun _ h => absurd hs h⟩
  · have hoff : ch.settings.limitsEnabled = false → ch.limitFor v = .normal := by
      intro h; simp [Channel.limitFor, h]
    by_cases he : ch.limitFor v = ch.limit
    · have e : ch.evaluate c cause = (ch, []) := by simp [Channel.evaluate, hs, he]
      refine ⟨ch.limit, ch.latches, by rw [e], fun h => by simp [hs] at h, fun h _ => ?_⟩
      rw [← he]; exact hoff h
    · exact ⟨ch.limitFor v, ch.latches ||| (ch.limitFor v).latch, by simp [Channel.evaluate, hs, he],
        fun h => by simp [hs] at h, fun h _ => hoff h⟩

/-- R125 to R127: an evaluation of a record whose other fields are legal gives a legal record. -/
theorem Channel.Legal.evaluate {ch : Channel} (c : ChannelId) (cause : LimitCause)
    (h : ch.settings.limitsEnabled = false → ch.settled = none → ch.limit = .normal)
    (hn : ch.settled = none → ch.limit = .normal)
    (hrest : ∀ l L, (ch.settled = none → l = .normal) → (ch.settings.limitsEnabled = false → l = .normal) →
      ({ ch with limit := l, latches := L } : Channel).Legal) :
    (ch.evaluate c cause).1.Legal := by
  obtain ⟨l, L, e, h1, h2⟩ := ch.evaluate_eq c cause
  rw [e]
  refine hrest l L (fun hs => (h1 hs).trans (hn hs)) fun hl => ?_
  by_cases hs : ch.settled = none
  · exact (h1 hs).trans (h hl hs)
  · exact h2 hl hs

/-! ### Settling (R117 to R122) -/

/-- A record whose settled value, limit state and latches are replaced stays legal under the two rules of R125, R127. -/
theorem Channel.Legal.withLimit {ch : Channel} (h : ch.Legal) (v : Option Settled) (l : LimitState) (L : BitVec 7)
    (hn : v = none → l = .normal) (hl : ch.settings.limitsEnabled = false → l = .normal) :
    ({ ch with settled := v, limit := l, latches := L } : Channel).Legal :=
  { h with noSettled := hn, noLimits := hl }

theorem Channel.Legal.setSettled {ch : Channel} (h : ch.Legal) (c : ChannelId) (r : Sample) :
    (ch.setSettled c r).1.Legal := by
  unfold Channel.setSettled
  split
  · refine Channel.Legal.evaluate (ch := { ch with settled := some ⟨r.value, ch.width⟩ }) c .settle ?_ ?_ ?_
    · intro _ hs; simp at hs
    · intro hs; simp at hs
    · intro l L hn hl
      exact h.withLimit (some ⟨r.value, ch.width⟩) l L hn hl
  · exact { h with noSettled := fun hs => by simp at hs }

theorem Channel.agreeAfter_le {ch : Channel} (h : 1 ≤ ch.settings.settleCount) (v : BitVec 32) :
    ch.agreeAfter v ≤ ch.settings.settleCount := by
  unfold Channel.agreeAfter
  split <;> omega

/-- R119 to R122: settling keeps a record legal. -/
theorem Channel.Legal.settle {ch : Channel} (h : ch.Legal) (c : ChannelId) (r : Sample) : (ch.settle c r).1.Legal := by
  unfold Channel.settle
  have hup : ({ ch with candidate := some r.value, agree := ch.agreeAfter r.value } : Channel).Legal :=
    { h with agree := Channel.agreeAfter_le h.settleCount.1 _, noCandidate := fun hc => by simp at hc }
  split
  · split
    · exact hup.setSettled c r
    · exact hup
  · exact { h with agree := Nat.zero_le _, noCandidate := fun _ => rfl }

/-- Settling moves only the candidate, the agree count, the settled value, the limit state and the latches. -/
theorem Channel.setSettled_eq (ch : Channel) (c : ChannelId) (r : Sample) :
    ∃ v l L, (ch.setSettled c r).1 = { ch with settled := v, limit := l, latches := L } := by
  unfold Channel.setSettled
  split
  · obtain ⟨l, L, e, -, -⟩ := Channel.evaluate_eq { ch with settled := some ⟨r.value, ch.width⟩ } c .settle
    exact ⟨_, l, L, e⟩
  · exact ⟨_, ch.limit, ch.latches, rfl⟩

theorem Channel.settle_eq (ch : Channel) (c : ChannelId) (r : Sample) :
    ∃ k a v l L, (ch.settle c r).1
      = { ch with candidate := k, agree := a, settled := v, limit := l, latches := L } := by
  unfold Channel.settle
  split
  · split
    · obtain ⟨v, l, L, e⟩ := Channel.setSettled_eq { ch with candidate := some r.value, agree := ch.agreeAfter r.value } c r
      exact ⟨_, _, v, l, L, e⟩
    · exact ⟨_, _, ch.settled, ch.limit, ch.latches, rfl⟩
  · exact ⟨ch.candidate, _, ch.settled, ch.limit, ch.latches, rfl⟩

/-! ### The queue (R139 to R142) -/

/-- A push moves only the queue and the latches. -/
theorem Channel.push_eq (ch : Channel) (c : ChannelId) (r : Sample) :
    ∃ q L, (ch.push c r).1 = { ch with queue := q, latches := L } := by
  unfold Channel.push
  split
  · exact ⟨ch.queue, ch.latches, rfl⟩
  · split
    · unfold Channel.pushRoom
      split <;> exact ⟨_, ch.latches, rfl⟩
    · exact ⟨_, _, rfl⟩

theorem overflowRecords_length {policy : OverflowPolicy} {records : List Sample} (h : 0 < records.length) (r : Sample) :
    (overflowRecords policy records r).length = records.length := by
  cases policy
  · rfl
  · simp [overflowRecords]; omega

/-- R137, R141, R142: a push keeps a record legal. -/
theorem Channel.Legal.push {ch : Channel} (h : ch.Legal) (c : ChannelId) (r : Sample) : (ch.push c r).1.Legal := by
  unfold Channel.push
  split
  · exact h
  · rename_i hq
    split
    · rename_i hlt
      unfold Channel.pushRoom
      split
      · exact { h with
          fill := by simp only [List.length_append, List.length_singleton]; omega
          armed := fun ha => by simp at ha }
      · rename_i hw
        exact { h with
          fill := by simp only [List.length_append, List.length_singleton]; omega
          armed := fun ha hpos => by
            have := h.armed ha hpos
            simp only [List.length_append, List.length_singleton]
            have hne : ch.queue.records.length + 1 ≠ ch.config.watermark := fun e => hw ⟨hpos, ha, e⟩
            omega }
    · rename_i hge
      have hfill := h.fill
      have hlen := overflowRecords_length (policy := ch.config.policy) (records := ch.queue.records) (by omega) r
      exact { h with
        fill := by simp only [Channel.pushFull, hlen]; exact hfill
        dropped := by simp only [Channel.pushFull, Config.maxDropped]; omega
        armed := fun ha hpos => by
          have := h.armed ha hpos
          have := h.watermark
          omega }

/-! ### Release (R108) -/

theorem Channel.Legal.receive {ch : Channel} (h : ch.Legal) (r : Sample) : (ch.receive (ch.numbered r)).Legal :=
  { h with
    sequence := fun x hx => by
      simp only [Channel.receive, ValueState.last, Option.some.injEq] at hx
      subst hx
      rfl
    timer := fun ht => ⟨rfl, (h.timer ht).2⟩ }

/-- R108, R110: a release keeps a record legal. -/
theorem Channel.Legal.release {ch : Channel} (h : ch.Legal) (now : Time) (c : ChannelId) (raw : Sample) :
    (ch.release now c raw).1.Legal := by
  unfold Channel.release
  have hp := ((h.receive raw).settle c (ch.numbered raw)).push c (ch.numbered raw)
  refine { hp with timer := fun ht => ?_ }
  obtain ⟨k, a, v, l, L, e1⟩ := Channel.settle_eq (ch.receive (ch.numbered raw)) c (ch.numbered raw)
  obtain ⟨q, L', e2⟩ := Channel.push_eq (((ch.receive (ch.numbered raw)).settle c (ch.numbered raw)).1) c (ch.numbered raw)
  refine ⟨?_, ?_⟩
  · change (((ch.receive (ch.numbered raw)).settle c (ch.numbered raw)).1.push c (ch.numbered raw)).1.data.reported = _
    rw [e2, e1]
    rfl
  · change 0 < (((ch.receive (ch.numbered raw)).settle c (ch.numbered raw)).1.push c (ch.numbered raw)).1.settings.staleWindow
    rw [e2, e1]
    change startTimer now ch.settings.staleWindow ≠ none at ht
    unfold startTimer at ht
    change 0 < ch.settings.staleWindow
    by_contra h0
    exact ht (if_pos (by omega))

/-- A release keeps the shape, the width and the settings of its channel. -/
theorem Channel.release_config (ch : Channel) (now : Time) (c : ChannelId) (raw : Sample) :
    (ch.release now c raw).1.config = ch.config ∧ (ch.release now c raw).1.width = ch.width
      ∧ (ch.release now c raw).1.settings = ch.settings := by
  unfold Channel.release
  obtain ⟨k, a, v, l, L, e1⟩ := Channel.settle_eq (ch.receive (ch.numbered raw)) c (ch.numbered raw)
  obtain ⟨q, L', e2⟩ := Channel.push_eq (((ch.receive (ch.numbered raw)).settle c (ch.numbered raw)).1) c (ch.numbered raw)
  simp only [e2]
  simp only [e1]
  exact ⟨rfl, rfl, rfl⟩

/-! ### Staleness (R112, R113) -/

theorem Channel.enterStale_cases (ch : Channel) (why : StaleReason) :
    ch.enterStale why = ch
    ∨ ∃ r, ch.data = .current r
        ∧ ch.enterStale why = { ch with data := .stale why r, staleTimer := none, candidate := none, agree := 0 } := by
  unfold Channel.enterStale
  cases h : ch.data with
  | noData => exact .inl rfl
  | current r => exact .inr ⟨r, rfl, rfl⟩
  | stale w r => exact .inl rfl

theorem Channel.enterStale_config (ch : Channel) (why : StaleReason) : (ch.enterStale why).config = ch.config := by
  rcases ch.enterStale_cases why with e | ⟨r, -, e⟩ <;> rw [e]

/-- R113: entry to STALE keeps a record legal. -/
theorem Channel.Legal.enterStale {ch : Channel} (h : ch.Legal) (why : StaleReason) : (ch.enterStale why).Legal := by
  rcases ch.enterStale_cases why with e | ⟨r, hr, e⟩ <;> rw [e]
  · exact h
  · exact { h with
      agree := Nat.zero_le _
      noCandidate := fun _ => rfl
      sequence := fun x hx => by
        refine h.sequence x ?_
        rw [hr]
        exact hx
      timer := fun ht => absurd rfl ht }

/-! ### Requests -/

theorem Channel.Legal.setWidth {ch : Channel} (h : ch.Legal) (w : Nat) : (ch.setWidth w).Legal := by
  unfold Channel.setWidth
  split
  · exact h
  · exact { h with agree := Nat.zero_le _, noCandidate := fun _ => rfl }

theorem Channel.setWidth_config (ch : Channel) (w : Nat) : (ch.setWidth w).config = ch.config := by
  unfold Channel.setWidth
  split <;> rfl

theorem Channel.Legal.clearValue {ch : Channel} (h : ch.Legal) : ch.clearValue.Legal :=
  { h with
    agree := Nat.zero_le _
    noCandidate := fun _ => rfl
    noSettled := fun _ => rfl
    noLimits := fun _ => rfl
    sequence := fun r hr => by cases hr
    timer := fun ht => absurd rfl ht }

theorem Channel.Legal.clearLatches {ch : Channel} (h : ch.Legal) (set : BitVec 7) : (ch.clearLatches set).Legal :=
  { h with }

theorem Channel.Legal.clearQueue {ch : Channel} (h : ch.Legal) : ch.clearQueue.Legal :=
  { h with
    fill := Nat.zero_le _
    dropped := Nat.zero_le _
    armed := fun _ hw => hw }

/-- R106: the three parts touch distinct state. -/
theorem Channel.clear_keeps {P : Channel → Prop} {ch : Channel} {f : ClearFields} (h : P ch)
    (hl : ∀ x set, P x → P (Channel.clearLatches x set)) (hv : ∀ x, P x → P (Channel.clearValue x))
    (hq : ∀ x, P x → P (Channel.clearQueue x)) : P (ch.clear f) := by
  unfold Channel.clear
  have ha : P (if f.namesLatches then ch.clearLatches (BitVec.ofNat 7 f.latches) else ch) := by
    split
    · exact hl _ _ h
    · exact h
  have hb := ha
  revert hb
  generalize (if f.namesLatches then ch.clearLatches (BitVec.ofNat 7 f.latches) else ch) = a
  intro hb
  have hc : P (if f.namesValue then a.clearValue else a) := by
    split
    · exact hv _ hb
    · exact hb
  simp only
  split
  · exact hq _ hc
  · exact hc

theorem Channel.Legal.clear {ch : Channel} (h : ch.Legal) (f : ClearFields) : (ch.clear f).Legal :=
  Channel.clear_keeps h (fun _ set hx => hx.clearLatches set) (fun _ hx => hx.clearValue) fun _ hx => hx.clearQueue

theorem Channel.clear_config (ch : Channel) (f : ClearFields) : (ch.clear f).config = ch.config :=
  Channel.clear_keeps (P := fun x => x.config = ch.config) rfl (fun _ _ h => h) (fun _ h => h) fun _ h => h

/-- R115: a CHANNELS reset keeps a record legal. -/
theorem Channel.Legal.resetState {ch : Channel} (h : ch.Legal) : ch.resetState.Legal :=
  { h with
    agree := Nat.zero_le _
    noCandidate := fun _ => rfl
    noSettled := fun _ => rfl
    noLimits := fun _ => rfl
    sequence := fun r hr => by cases hr
    timer := fun ht => absurd rfl ht
    fill := Nat.zero_le _
    dropped := Nat.zero_le _
    armed := fun _ hw => hw }

/-- R142, R146: a drain keeps a record legal. -/
theorem Channel.Legal.drain {ch : Channel} (h : ch.Legal) (max : Nat) :
    ({ ch with queue := ch.queue.drain ch.config.watermark max } : Channel).Legal :=
  { h with
    fill := by
      have := h.fill
      simp only [SampleQueue.drain, List.length_drop]
      omega
    dropped := Nat.zero_le _
    armed := fun ha hpos => by
      simp only [SampleQueue.drain, Bool.or_eq_true, decide_eq_true_eq, List.length_drop] at ha ⊢
      rcases ha with ha | ha
      · have := h.armed ha hpos
        omega
      · omega }

/-- R103: new settings keep a record legal when they pass the checks of R102. -/
theorem Channel.Legal.applySettings {ch : Channel} (h : ch.Legal) (now : Time) (c : ChannelId) (t : ChannelSettings)
    (hs : 1 ≤ t.settleCount ∧ t.settleCount ≤ 15) (hd : t.deadband ≤ 65535) (hw : t.staleWindow ≤ 65535)
    (hl : t.limitsEnabled = true → limitsFit ch.config.signed t = true) :
    (ch.applySettings now c t).1.Legal := by
  have htimer : ch.staleTimerAfterSet now t ≠ none → ch.data.reported = .current ∧ 0 < t.staleWindow := by
    unfold Channel.staleTimerAfterSet
    split
    · rename_i he
      intro ht
      rw [he]
      exact h.timer ht
    · cases hdata : ch.data with
      | noData =>
        intro ht
        have := (h.timer ht).1
        rw [hdata] at this
        exact absurd this (by decide)
      | current r =>
        intro ht
        refine ⟨rfl, ?_⟩
        unfold startTimer at ht
        by_contra h0
        exact ht (if_pos (by omega))
      | stale w r =>
        intro ht
        have := (h.timer ht).1
        rw [hdata] at this
        exact absurd this (by change ReportedState.stale ≠ ReportedState.current; decide)
  have key : ∀ l L, (ch.settled = none → l = .normal) → (t.limitsEnabled = false → l = .normal) →
      ({ ch with candidate := none, agree := 0, settings := t, staleTimer := ch.staleTimerAfterSet now t,
                 limit := l, latches := L } : Channel).Legal := fun l L hn hoff =>
    { h with
      settleCount := hs
      deadband := hd
      staleWindow := hw
      limits := hl
      agree := Nat.zero_le _
      noCandidate := fun _ => rfl
      noSettled := hn
      noLimits := hoff
      timer := htimer }
  unfold Channel.applySettings
  simp only
  split
  · refine Channel.Legal.evaluate c .set ?_ ?_ ?_
    · intro _ hn
      exact h.noSettled hn
    · intro hn
      exact h.noSettled hn
    · intro l L hn hoff
      exact key l L hn hoff
  · rename_i hdiff
    have he : t.limitsEnabled = ch.settings.limitsEnabled := by
      simp only [ChannelSettings.limitsDiffer, decide_eq_true_eq, not_or, not_not] at hdiff
      exact hdiff.1.symm
    exact key ch.limit ch.latches h.noSettled fun hoff => h.noLimits (by rw [← he]; exact hoff)

theorem Channel.applySettings_config (ch : Channel) (now : Time) (c : ChannelId) (t : ChannelSettings) :
    (ch.applySettings now c t).1.config = ch.config := by
  unfold Channel.applySettings
  simp only
  split
  · obtain ⟨l, L, e, -, -⟩ := Channel.evaluate_eq
      { ch.restartAgreement with settings := t, staleTimer := ch.staleTimerAfterSet now t } c .set
    rw [e]
    rfl
  · rfl

end Sys2Proof.Machine
end

