-- ==== Sys2Proof/Laws/Notices.lean ====
section
/-! SUPPORT. What a raise, a mask, a grant do at the Notice Unit, and that each keeps the unit legal. -/

namespace Sys2Proof.Machine

theorem Raise.sameNotice_eq (a b : Raise) :
    a.sameNotice b = true ↔ a.kind = b.kind ∧ a.subject = b.subject := by
  simp [Raise.sameNotice]

theorem Raise.sameNotice_comm (a b : Raise) : a.sameNotice b = b.sameNotice a := by
  simp [Raise.sameNotice, eq_comm]

@[simp] theorem Raise.sameNotice_refl (a : Raise) : a.sameNotice a = true := by
  simp [Raise.sameNotice]

/-- Two raises about the same notice are told apart from a third alike. -/
theorem Raise.sameNotice_congr {a b : Raise} (h : a.sameNotice b = true) (c : Raise) :
    a.sameNotice c = b.sameNotice c := by
  rw [Raise.sameNotice_eq] at h
  simp [Raise.sameNotice, h.1, h.2]

/-- R168: what one raise can do to the unit. -/
theorem NoticeUnit.take_cases (n : NoticeUnit) (r : Raise) :
    (n.enabled r.kind = false ∧ n.take r = n)
    ∨ (n.enabled r.kind = true ∧ (∃ m ∈ n.queue, m.content.sameNotice r = true)
        ∧ n.take r = { n with queue := n.queue.map fun m => if m.content.sameNotice r then m.merge r else m })
    ∨ (n.enabled r.kind = true ∧ (∀ m ∈ n.queue, m.content.sameNotice r = false) ∧ n.queue.length < 32
        ∧ n.take r = { n with queue := n.queue ++ [⟨r, 0⟩] })
    ∨ (n.enabled r.kind = true ∧ (∀ m ∈ n.queue, m.content.sameNotice r = false) ∧ 32 ≤ n.queue.length
        ∧ n.take r = { n with dropped := min (n.dropped + 1) 65535 }) := by
  unfold NoticeUnit.take
  by_cases he : n.enabled r.kind = true
  · by_cases hm : n.queue.any (fun m => m.content.sameNotice r) = true
    · right; left
      refine ⟨he, ?_, ?_⟩
      · simpa using hm
      · simp [he, hm]
    · have hm' : ∀ m ∈ n.queue, m.content.sameNotice r = false := by simpa using hm
      have hm2 : n.queue.any (fun m => m.content.sameNotice r) = false := by simpa using hm
      by_cases hl : n.queue.length < 32
      · right; right; left
        exact ⟨he, hm', hl, by simp [he, hm2, Config.noticeSlots, hl]⟩
      · right; right; right
        exact ⟨he, hm', by omega, by simp [he, hm2, Config.noticeSlots, Config.maxDropped, hl]⟩
  · left
    have he2 : n.enabled r.kind = false := by simpa using he
    exact ⟨he2, by simp [he2]⟩

theorem NoticeUnit.take_mask (n : NoticeUnit) (r : Raise) : (n.take r).mask = n.mask := by
  rcases n.take_cases r with ⟨-, h⟩ | ⟨-, -, h⟩ | ⟨-, -, -, h⟩ | ⟨-, -, -, h⟩ <;> rw [h]

theorem NoticeUnit.take_credits (n : NoticeUnit) (r : Raise) : (n.take r).credits = n.credits := by
  rcases n.take_cases r with ⟨-, h⟩ | ⟨-, -, h⟩ | ⟨-, -, -, h⟩ | ⟨-, -, -, h⟩ <;> rw [h]

theorem NoticeUnit.take_nextSeq (n : NoticeUnit) (r : Raise) : (n.take r).nextSeq = n.nextSeq := by
  rcases n.take_cases r with ⟨-, h⟩ | ⟨-, -, h⟩ | ⟨-, -, -, h⟩ | ⟨-, -, -, h⟩ <;> rw [h]

/-- A merge keeps what a notice is about. -/
theorem Notice.merge_about {m : Notice} {r : Raise} (c : Raise) :
    (if m.content.sameNotice r then m.merge r else m).content.sameNotice c = m.content.sameNotice c := by
  by_cases h : m.content.sameNotice r = true
  · rw [if_pos h, Raise.sameNotice_congr h]
    rfl
  · rw [if_neg h]

theorem Notice.merge_kind {m : Notice} {r : Raise} :
    (if m.content.sameNotice r then m.merge r else m).content.kind = m.content.kind := by
  by_cases h : m.content.sameNotice r = true
  · rw [if_pos h]
    exact ((Raise.sameNotice_eq _ _).1 h).1.symm
  · rw [if_neg h]

theorem Notice.merge_coalesced {m : Notice} {r : Raise} (h : m.coalesced ≤ 255) :
    (if m.content.sameNotice r then m.merge r else m).coalesced ≤ 255 := by
  by_cases hs : m.content.sameNotice r = true
  · rw [if_pos hs]
    simp only [Notice.merge, Config.maxCoalesced]
    omega
  · rw [if_neg hs]
    exact h

/-- R165, R168 to R170, R172: a raise keeps the unit legal. -/
theorem NoticeUnit.Legal.take {n : NoticeUnit} (h : n.Legal) (r : Raise) : (n.take r).Legal := by
  rcases n.take_cases r with ⟨-, e⟩ | ⟨he, hm, e⟩ | ⟨he, hm, hl, e⟩ | ⟨he, hm, hl, e⟩ <;> rw [e]
  · exact h
  · refine ⟨by simpa using h.slots, ?_, ?_, ?_, h.credits, h.dropped⟩
    · rw [List.pairwise_map]
      refine h.distinct.imp ?_
      intro a b hab
      rw [Notice.merge_about, Raise.sameNotice_comm, Notice.merge_about, Raise.sameNotice_comm]
      exact hab
    · intro m hmem
      obtain ⟨a, ha, rfl⟩ := List.mem_map.1 hmem
      rw [Notice.merge_kind]
      exact h.enabled a ha
    · intro m hmem
      obtain ⟨a, ha, rfl⟩ := List.mem_map.1 hmem
      exact Notice.merge_coalesced (h.coalesced a ha)
  · refine ⟨?_, ?_, ?_, ?_, h.credits, h.dropped⟩
    · simp; omega
    · rw [List.pairwise_append]
      refine ⟨h.distinct, List.pairwise_singleton _ _, ?_⟩
      intro a ha b hb
      rw [List.mem_singleton.1 hb]
      exact hm a ha
    · intro m hmem
      rcases List.mem_append.1 hmem with hmem | hmem
      · exact h.enabled m hmem
      · rw [List.mem_singleton.1 hmem]
        exact he
    · intro m hmem
      rcases List.mem_append.1 hmem with hmem | hmem
      · exact h.coalesced m hmem
      · rw [List.mem_singleton.1 hmem]
        exact Nat.zero_le _
  · exact ⟨h.slots, h.distinct, h.enabled, h.coalesced, h.credits, by simp only; omega⟩

/-- R173: a new mask keeps the unit legal. -/
theorem NoticeUnit.Legal.setMask {n : NoticeUnit} (h : n.Legal) (mask : BitVec 9) : (n.setMask mask).Legal where
  slots := le_trans (List.length_filter_le _ _) h.slots
  distinct := h.distinct.filter _
  enabled := fun _ hm => (List.mem_filter.1 hm).2
  coalesced := fun m hm => h.coalesced m (List.mem_filter.1 hm).1
  credits := h.credits
  dropped := h.dropped

/-- R175, R177: a grant keeps the unit legal. -/
theorem NoticeUnit.Legal.grant {n : NoticeUnit} (h : n.Legal) (k : Nat) : (n.grant k).Legal where
  slots := h.slots
  distinct := h.distinct
  enabled := h.enabled
  coalesced := h.coalesced
  credits := by simp only [NoticeUnit.grant, Config.maxCredits]; omega
  dropped := h.dropped

/-- R178: a send keeps the unit legal. -/
theorem NoticeUnit.Legal.send {n : NoticeUnit} (h : n.Legal) {m : Notice} {rest : List Notice}
    (hq : n.queue = m :: rest) :
    ({ n with queue := rest, credits := n.credits - 1, nextSeq := n.nextSeq + 1, dropped := 0 } : NoticeUnit).Legal where
  slots := by have := h.slots; rw [hq, List.length_cons] at this; simp only; omega
  distinct := by have := h.distinct; rw [hq] at this; exact this.of_cons
  enabled := fun x hx => h.enabled x (by rw [hq]; exact List.mem_cons_of_mem _ hx)
  coalesced := fun x hx => h.coalesced x (by rw [hq]; exact List.mem_cons_of_mem _ hx)
  credits := by have := h.credits; simp only; omega
  dropped := Nat.zero_le _

theorem NoticeUnit.Legal.reset : NoticeUnit.reset.Legal where
  slots := by decide
  distinct := List.Pairwise.nil
  enabled := by intro m hm; cases hm
  coalesced := by intro m hm; cases hm
  credits := by decide
  dropped := by decide

end Sys2Proof.Machine
end

