-- ==== Sys2Proof/Laws/Executor.lean ====
section
/-! SUPPORT. What one step of the executor can do, and what its reply does to the Link Interface. -/

namespace Sys2Proof.Machine

/-! ### Taking a request (R189, R190) -/

/-- R189, R190: everything a step of the executor can do. -/
theorem State.takeRequest_cases (s : State) (wanted : Request → Bool) (act : Request → State → State) :
    s.takeRequest wanted act = s
    ∨ ∃ q rest, s.head q rest ∧ wanted q = true ∧
        ((∃ e, s.cached q = some e ∧ s.takeRequest wanted act = ({ s with inbound := rest } : State).answerAgain e)
          ∨ (s.cached q = none ∧ s.takeRequest wanted act = act q { s with inbound := rest })) := by
  unfold State.takeRequest
  split
  · exact .inl rfl
  · rename_i q rest hq
    by_cases hc : s.replies.length < Config.replySlots ∧ wanted q = true
    · rw [if_pos hc]
      refine .inr ⟨q, rest, ⟨hq, hc.1⟩, hc.2, ?_⟩
      have hcached : ({ s with inbound := rest } : State).cached q = s.cached q := rfl
      unfold State.serve
      rw [hcached]
      cases hs : s.cached q with
      | none => exact .inr ⟨rfl, rfl⟩
      | some e => exact .inl ⟨e, rfl, rfl⟩
    · rw [if_neg hc]
      exact .inl rfl

theorem State.takeRequest_empty {s : State} (h : s.inbound = []) (wanted : Request → Bool)
    (act : Request → State → State) : s.takeRequest wanted act = s := by
  simp [State.takeRequest, h]

/-- R189: with four replies waiting the executor waits. -/
theorem State.takeRequest_full {s : State} (h : 4 ≤ s.replies.length) (wanted : Request → Bool)
    (act : Request → State → State) : s.takeRequest wanted act = s := by
  unfold State.takeRequest
  split
  · rfl
  · rw [if_neg]
    simp only [Config.replySlots]
    omega

theorem State.takeRequest_fresh {s : State} {q : Request} {rest : List Request} (h : s.fresh q rest)
    {wanted : Request → Bool} (hw : wanted q = true) (act : Request → State → State) :
    s.takeRequest wanted act = act q { s with inbound := rest } := by
  obtain ⟨⟨hq, hr⟩, hc⟩ := h
  have hcached : ({ s with inbound := rest } : State).cached q = s.cached q := rfl
  simp [State.takeRequest, hq, hr, hw, State.serve, hcached, hc]

theorem State.takeRequest_duplicate {s : State} {q : Request} {rest : List Request} (h : s.head q rest)
    {e : CacheEntry} (hc : s.cached q = some e) {wanted : Request → Bool} (hw : wanted q = true)
    (act : Request → State → State) :
    s.takeRequest wanted act = { s with inbound := rest, replies := s.replies ++ [e.body] } := by
  obtain ⟨hq, hr⟩ := h
  have hcached : ({ s with inbound := rest } : State).cached q = s.cached q := rfl
  simp [State.takeRequest, hq, hr, hw, State.serve, hcached, hc, State.answerAgain]

theorem State.takeRequest_unwanted {s : State} {q : Request} {rest : List Request} (h : s.inbound = q :: rest)
    {wanted : Request → Bool} (hw : wanted q = false) (act : Request → State → State) :
    s.takeRequest wanted act = s := by
  simp [State.takeRequest, h, hw]

/-! ### Requests of one kind (R191, R192) -/

/-- A new request of the kind with an allowed length runs, and its reply is placed. -/
theorem State.executeKind_asks {s : State} {q : Request} {rest : List Request} {kind : Byte}
    (h : s.asks q rest kind) (run : List Byte → State → Reply × State) :
    s.executeKind kind run
      = (run q.payload { s with inbound := rest }).2.answer q (run q.payload { s with inbound := rest }).1 := by
  obtain ⟨hf, hk, hl⟩ := h
  unfold State.executeKind
  rw [State.takeRequest_fresh hf (by simp [hk])]
  rw [← hk] at hl
  simp [runChecked, hl]

/-- A new request of the kind with a length that is not allowed is answered BAD_LENGTH. -/
theorem State.executeKind_badLength {s : State} {q : Request} {rest : List Request} {kind : Byte}
    (hf : s.fresh q rest) (hk : q.kind = kind) (hl : lengthAllowed kind q.payload.length = false)
    (run : List Byte → State → Reply × State) :
    s.executeKind kind run = ({ s with inbound := rest } : State).answer q (badLength q) := by
  unfold State.executeKind
  rw [State.takeRequest_fresh hf (by simp [hk])]
  rw [← hk] at hl
  simp [runChecked, hl]

/-- The reply of a request that changes nothing outside the Link Interface. -/
theorem State.answer_answered (s : State) (q : Request) (rest : List Request) (r : Reply) :
    ({ s with inbound := rest } : State).answer q r = s.answered q rest r.status r.payload := rfl

/-- `answered` of any state that keeps the Link Interface's queues. -/
theorem State.answer_eq_answered {s t : State} {rest : List Request} (q : Request) (r : Reply)
    (h : t = { s with inbound := rest }) : t.answer q r = s.answered q rest r.status r.payload := by
  subst h
  rfl

/-! ### What a step of the executor keeps -/

/-- A property kept by taking a request off the queue, by a repeated reply and by a row's work is kept by the row. -/
theorem State.takeRequest_keeps {P : State → Prop} {wanted : Request → Bool} {act : Request → State → State}
    (hpop : ∀ s rest, P s → (∃ q, s.inbound = q :: rest) → s.replies.length < 4 → P { s with inbound := rest })
    (hagain : ∀ (s : State) (e : CacheEntry), P s → s.replies.length < 4 → P (s.answerAgain e))
    (hact : ∀ q s, P s → s.replies.length < 4 → wanted q = true → P (act q s))
    {s : State} (h : P s) : P (s.takeRequest wanted act) := by
  rcases s.takeRequest_cases wanted act with e | ⟨q, rest, ⟨hq, hr⟩, hw, ⟨c, hc, e⟩ | ⟨hc, e⟩⟩
  · rw [e]; exact h
  · rw [e]
    exact hagain _ _ (hpop s rest h ⟨q, hq⟩ hr) hr
  · rw [e]
    exact hact q _ (hpop s rest h ⟨q, hq⟩ hr) hr hw

/-- What `runChecked` can do. -/
theorem runChecked_cases (run : List Byte → State → Reply × State) (q : Request) (s : State) :
    runChecked run q s = s.answer q (badLength q)
    ∨ (lengthAllowed q.kind q.payload.length = true
        ∧ runChecked run q s = (run q.payload s).2.answer q (run q.payload s).1) := by
  unfold runChecked
  by_cases h : lengthAllowed q.kind q.payload.length = true
  · rw [if_pos h]; exact .inr ⟨h, rfl⟩
  · rw [if_neg h]; exact .inl rfl

/-! ### The reply cache (R194) -/

theorem placeInCache_length {cache : List CacheEntry} (h : cache.length ≤ 4) (e : CacheEntry) :
    (placeInCache cache e).length ≤ 4 := by
  unfold placeInCache
  split
  · rename_i ha
    rw [List.length_append, List.length_singleton]
    have hlt : (cache.filter fun x => x.tag != e.tag).length < cache.length := by
      obtain ⟨x, hx, hxe⟩ := List.any_eq_true.1 ha
      exact List.length_filter_lt_length_iff_exists.2 ⟨x, hx, by simpa using hxe⟩
    omega
  · split
    · rename_i hl
      simp only [Config.cacheSlots] at hl
      simp; omega
    · rename_i hl
      simp only [Config.cacheSlots] at hl
      simp; omega

theorem placeInCache_tags {cache : List CacheEntry} (h : cache.Pairwise fun a b => a.tag ≠ b.tag) (e : CacheEntry) :
    (placeInCache cache e).Pairwise fun a b => a.tag ≠ b.tag := by
  have hsingle : ∀ l : List CacheEntry, l.Pairwise (fun a b => a.tag ≠ b.tag) → (∀ x ∈ l, x.tag ≠ e.tag) →
      (l ++ [e]).Pairwise fun a b => a.tag ≠ b.tag := by
    intro l hl hx
    rw [List.pairwise_append]
    exact ⟨hl, List.pairwise_singleton _ _, fun a ha b hb => by rw [List.mem_singleton.1 hb]; exact hx a ha⟩
  unfold placeInCache
  split
  · exact hsingle _ (h.filter _) fun x hx => by simpa using (List.mem_filter.1 hx).2
  · rename_i ha
    have hne : ∀ x ∈ cache, x.tag ≠ e.tag := by simpa using ha
    split
    · exact hsingle _ h hne
    · exact hsingle _ (h.sublist (List.tail_sublist _)) fun x hx => hne x (List.mem_of_mem_tail hx)

/-- R194: the reply placed is the newest entry. -/
theorem placeInCache_last (cache : List CacheEntry) (e : CacheEntry) : (placeInCache cache e).getLast? = some e := by
  unfold placeInCache
  split
  · simp
  · split <;> simp

end Sys2Proof.Machine
end

