-- ==== Sys2Proof/Laws/Requests.lean ====
section
/-! SUPPORT. What a request can do: a property kept by each change a request can make is kept where the executor takes one,
whatever its kind. -/

namespace Sys2Proof.Machine

/-- R192: the lengths of a kind are those of its one row of the table. -/
theorem lengthAllowed_of_row {kind : Byte} {lo hi : Nat}
    (h : (requestLengths.filter fun r => r.1 == kind) = [(kind, lo, hi)]) (n : Nat) :
    lengthAllowed kind n = decide (lo ≤ n ∧ n ≤ hi) := by
  have e : lengthAllowed kind n
      = (requestLengths.filter fun r => r.1 == kind).any fun r => decide (r.2.1 ≤ n ∧ n ≤ r.2.2) := by
    rw [List.any_filter]
    rfl
  rw [e, h]
  simp

theorem length_eq_of_row {kind : Byte} {lo n : Nat} (hl : lengthAllowed kind n = true)
    (h : (requestLengths.filter fun r => r.1 == kind) = [(kind, lo, lo)]) : n = lo := by
  rw [lengthAllowed_of_row h] at hl
  have := of_decide_eq_true hl
  omega

/-- The readings leave everything but the count of free values. -/
theorem runChannelRead_state (p : List Byte) (s : State) :
    (runChannelRead p s).2 = s ∨ (runChannelRead p s).2 = { s with draws := s.draws + 4 } := by
  unfold runChannelRead
  split
  · exact .inl rfl
  · split
    · exact .inl rfl
    · exact .inr rfl

theorem runStreamStatus_state (p : List Byte) (s : State) :
    (runStreamStatus p s).2 = s ∨ (runStreamStatus p s).2 = { s with draws := s.draws + 1 } := by
  unfold runStreamStatus
  split
  · exact .inl rfl
  · exact .inr rfl

theorem runProfileRead_state (p : List Byte) (s : State) : (runProfileRead p s).2 = s := by
  unfold runProfileRead
  split <;> rfl

theorem runMapList_state (p : List Byte) (s : State) : (runMapList p s).2 = s := by
  unfold runMapList
  split <;> rfl

theorem runRosterRead_state (p : List Byte) (s : State) : (runRosterRead p s).2 = s := by
  unfold runRosterRead
  split <;> rfl

/-- The changes requests make outside the Link Interface, the RESETs of scope FULL and STREAMS left out. The lengths are those the
link-level check allows (R192). -/
structure RunsKeep (P : State → Prop) : Prop where
  draws : ∀ s n, P s → P { s with draws := n }
  resetChannels : ∀ s, P s → P s.resetChannels
  profileLoad : ∀ p s, p.length = 28 → P s → P (runProfileLoad p s).2
  profileDrop : ∀ p s, p.length = 1 → P s → P (runProfileDrop p s).2
  streamArm : ∀ p s, p.length = 6 → P s → P (runStreamArm p s).2
  streamDisarm : ∀ p s, p.length = 1 → P s → P (runStreamDisarm p s).2
  mapAdd : ∀ p s, p.length = 12 → P s → P (runMapAdd p s).2
  mapRemove : ∀ p s, p.length = 4 → P s → P (runMapRemove p s).2
  mapCommit : ∀ p s, p.length = 1 → P s → P (runMapCommit p s).2
  mapDiscard : ∀ p s, p.length = 1 → P s → P (runMapDiscard p s).2
  channelBind : ∀ p s, p.length = 9 → P s → P (runChannelBind p s).2
  channelUnbind : ∀ p s, p.length = 1 → P s → P (runChannelUnbind p s).2
  channelSet : ∀ p s, p.length = 20 → P s → P (runChannelSet p s).2
  channelClear : ∀ p s, p.length = 3 → P s → P (runChannelClear p s).2
  queueDrain : ∀ p s, p.length = 2 → P s → P (runQueueDrain p s).2
  rosterSet : ∀ p s, 1 ≤ p.length → p.length ≤ 17 → P s → P (runRosterSet p s).2
  rosterStart : ∀ p s, p.length = 3 → P s → P (runRosterStart p s).2
  rosterStop : ∀ p s, p.length = 1 → P s → P (runRosterStop p s).2
  noticeMask : ∀ p s, p.length = 2 → P s → P (runNoticeMask p s).2
  noticeGrant : ∀ p s, p.length = 1 → P s → P (runNoticeGrant p s).2

/-- The same with the Link Interface's own fields. A property that all of these changes keep is kept by a turn of the executor. -/
structure RequestKeeps (P : State → Prop) : Prop extends RunsKeep P where
  link : ∀ (s : State) rx inbound replies cache ready tx, P s →
    P { s with rx := rx, inbound := inbound, replies := replies, cache := cache, ready := ready, tx := tx }

variable {P : State → Prop}

/-- The work of every request but RESET. -/
theorem RunsKeep.runs (k : RunsKeep P) : ∀ r ∈ requestRuns, ∀ p s, lengthAllowed r.1 p.length = true → P s →
    P (r.2 p s).2 := by
  have one : ∀ {kind : Byte} {lo : Nat} {run : List Byte → State → Reply × State},
      (requestLengths.filter fun r => r.1 == kind) = [(kind, lo, lo)] → (∀ p s, p.length = lo → P s → P (run p s).2) →
      ∀ p s, lengthAllowed kind p.length = true → P s → P (run p s).2 :=
    fun hrow hrun p s hl hs => hrun p s (length_eq_of_row hl hrow) hs
  have same : ∀ {kind : Byte} {run : List Byte → State → Reply × State}, (∀ p s, (run p s).2 = s) →
      ∀ p s, lengthAllowed kind p.length = true → P s → P (run p s).2 := by
    intro kind run hrun p s _ hs
    rw [hrun]
    exact hs
  simp only [requestRuns, List.forall_mem_cons]
  refine ⟨same fun _ _ => rfl, same fun _ _ => rfl, one (by decide) k.profileLoad, one (by decide) k.profileDrop,
    same runProfileRead_state, one (by decide) k.streamArm, one (by decide) k.streamDisarm, fun p s _ hs => ?_,
    one (by decide) k.mapAdd, one (by decide) k.mapRemove, one (by decide) k.mapCommit, one (by decide) k.mapDiscard,
    same runMapList_state, one (by decide) k.channelBind, one (by decide) k.channelUnbind, one (by decide) k.channelSet,
    fun p s _ hs => ?_, one (by decide) k.channelClear, one (by decide) k.queueDrain, fun p s hl hs => ?_,
    same runRosterRead_state, one (by decide) k.rosterStart, one (by decide) k.rosterStop, one (by decide) k.noticeMask,
    one (by decide) k.noticeGrant, by simp⟩
  · rcases runStreamStatus_state p s with e | e <;> rw [e]
    · exact hs
    · exact k.draws s _ hs
  · rcases runChannelRead_state p s with e | e <;> rw [e]
    · exact hs
    · exact k.draws s _ hs
  · rw [lengthAllowed_of_row (lo := 1) (hi := 17) (by decide)] at hl
    have := of_decide_eq_true hl
    exact k.rosterSet p s this.1 this.2 hs

/-- R191: everything the executor does with a new request: an answer, after what the request did to the rest of the part. -/
theorem RunsKeep.actAny (k : RunsKeep P) {s : State} (h : P s) (q : Request) :
    ∃ (u : State) (r : Reply), P u ∧ Machine.actAny q s = u.answer q r := by
  unfold Machine.actAny
  split
  · unfold actResetChannels
    split
    · exact ⟨s, _, h, rfl⟩
    · exact ⟨_, _, k.resetChannels s h, rfl⟩
  · split
    · rename_i r hr
      rcases runChecked_cases r.2 q s with e | ⟨hl, e⟩
      · exact ⟨s, _, h, e⟩
      · have hk : r.1 = q.kind := by simpa using List.find?_some hr
        exact ⟨_, _, k.runs r (List.mem_of_find?_eq_some hr) _ s (by rw [hk]; exact hl) h, e⟩
    · exact ⟨s, _, h, rfl⟩

theorem RequestKeeps.answer (k : RequestKeeps P) {s : State} (h : P s) (q : Request) (r : Reply) : P (s.answer q r) :=
  k.link s s.rx s.inbound (s.replies ++ [r.body q]) (placeInCache s.cache ⟨q.tag, q.kind, r.body q⟩) s.ready s.tx h

theorem RequestKeeps.takeRequest (k : RequestKeeps P) {wanted : Request → Bool} {act : Request → State → State}
    (hact : ∀ q s, wanted q = true → P s → P (act q s)) {s : State} (h : P s) : P (s.takeRequest wanted act) :=
  State.takeRequest_keeps
    (fun s rest h _ _ => k.link s s.rx rest s.replies s.cache s.ready s.tx h)
    (fun s e h _ => k.link s s.rx s.inbound (s.replies ++ [e.body]) s.cache s.ready s.tx h)
    (fun q s h _ hw => hact q s hw h) h

theorem RequestKeeps.runChecked (k : RequestKeeps P) {run : List Byte → State → Reply × State} {kind : Byte} {q : Request}
    (hk : q.kind = kind) (hrun : ∀ p s, lengthAllowed kind p.length = true → P s → P (run p s).2) {s : State} (h : P s) :
    P (runChecked run q s) := by
  rcases runChecked_cases run q s with e | ⟨hl, e⟩
  · rw [e]; exact k.answer h _ _
  · rw [e]
    rw [hk] at hl
    exact k.answer (hrun _ _ hl h) _ _

theorem RequestKeeps.executeKind (k : RequestKeeps P) {run : List Byte → State → Reply × State} {kind : Byte}
    (hrun : ∀ p s, lengthAllowed kind p.length = true → P s → P (run p s).2) {s : State} (h : P s) :
    P (s.executeKind kind run) :=
  k.takeRequest (fun _ _ hw hs => k.runChecked (by simpa using hw) hrun hs) h

theorem RequestKeeps.actReset (k : RequestKeeps P) {f : Request → State → State} (hf : ∀ q s, P s → P (f q s)) {q : Request}
    {s : State} (h : P s) : P (match resetRefusal q with | some r => s.answer q r | none => f q s) := by
  split
  · exact k.answer h _ _
  · exact hf q s h

/-- A row that takes every request of one kind. -/
theorem RequestKeeps.row (k : RequestKeeps P) {kind : Byte} {run : List Byte → State → Reply × State}
    (hm : (kind, run) ∈ requestRuns) {s : State} (h : P s) : P (s.executeKind kind run) :=
  k.executeKind (fun p s hl hs => k.runs _ hm p s hl hs) h

theorem RequestKeeps.channelClearRow (k : RequestKeeps P) (part : Nat) {s : State} (h : P s) :
    P (s.takeRequest (takesClear part) (Machine.runChecked runChannelClear)) :=
  k.takeRequest (fun q s hw hs => k.runChecked (kind := kindChannelClear)
    (by simp only [takesClear, Bool.and_eq_true, beq_iff_eq] at hw; exact hw.1)
    (fun p s hl hs => k.channelClear p s (length_eq_of_row hl (by decide)) hs) hs) h

/-- R189: a turn of the executor, whatever the kind of the request. -/
theorem RequestKeeps.takeAny (k : RequestKeeps P) {s : State} (h : P s) : P s.takeAny := by
  refine k.takeRequest (fun q s _ hs => ?_) h
  obtain ⟨u, r, hu, e⟩ := k.actAny hs q
  rw [e]
  exact k.answer hu q r

theorem RequestKeeps.takeTurn (k : RequestKeeps P) {s : State} (h : P s) (i : StreamId) : P (s.takeTurn i) := by
  unfold State.takeTurn
  split
  · exact k.takeAny h
  · exact h

/-- The streams' own records: of the requests only STREAM_ARM and STREAM_DISARM change them. -/
theorem requestRuns_streams : ∀ r ∈ requestRuns, r.1 ≠ kindStreamArm → r.1 ≠ kindStreamDisarm → ∀ p s,
    (r.2 p s).2.syn = s.syn ∧ (r.2 p s).2.trk = s.trk := by
  have no : ∀ {k : Byte} {run : List Byte → State → Reply × State},
      (∀ p s, (run p s).2.syn = s.syn ∧ (run p s).2.trk = s.trk) → k ≠ kindStreamArm → k ≠ kindStreamDisarm →
      ∀ p s, (run p s).2.syn = s.syn ∧ (run p s).2.trk = s.trk := fun h _ _ => h
  simp only [requestRuns, List.forall_mem_cons]
  refine ⟨no fun p s => ?_, no fun p s => ?_, no fun p s => ?_, no fun p s => ?_, no fun p s => ?_, fun h => absurd rfl h,
    fun _ h => absurd rfl h, no fun p s => ?_, no fun p s => ?_, no fun p s => ?_, no fun p s => ?_, no fun p s => ?_,
    no fun p s => ?_, no fun p s => ?_, no fun p s => ?_, no fun p s => ?_, no fun p s => ?_, no fun p s => ?_,
    no fun p s => ?_, no fun p s => ?_, no fun p s => ?_, no fun p s => ?_, no fun p s => ?_, no fun p s => ?_,
    no fun p s => ?_, by simp⟩
  all_goals
    simp only [runPing, runTimeGet, runProfileLoad, runProfileDrop, runProfileRead, runStreamStatus, runMapAdd, runMapRemove,
      runMapCommit, runMapDiscard, runMapList, runChannelBind, runChannelUnbind, runChannelSet, runChannelRead,
      runChannelClear, runQueueDrain, runRosterSet, runRosterRead, runRosterStart, runRosterStop, runNoticeMask,
      runNoticeGrant, State.stageEdit, State.commit]
    repeat' split
    all_goals first | exact ⟨rfl, rfl⟩ | exact ⟨trivial, trivial⟩ | exact ⟨State.raiseAll_syn _ _, State.raiseAll_trk _ _⟩

/-! ### The rows behind a turn (R189) -/

theorem actAny_run {q : Request} {kind : Byte} {run : List Byte → State → Reply × State} (hk : q.kind = kind)
    (hr : kind ≠ kindReset) (hf : (requestRuns.find? fun r => r.1 == kind) = some (kind, run)) :
    actAny q = runChecked run q := by
  funext s
  subst hk
  unfold actAny
  rw [if_neg hr, hf]

/-- R192: the runs are those of the known kinds but RESET. -/
theorem requestRuns_unknown {kind : Byte} (h : kindKnown kind = false) :
    (requestRuns.find? fun r => r.1 == kind) = none := by
  have hall : ∀ r ∈ requestRuns, kindKnown r.1 = true := by
    simp only [requestRuns, List.forall_mem_cons]
    decide
  rw [List.find?_eq_none]
  intro r hr
  have := hall r hr
  rintro hk
  rw [← beq_iff_eq.1 hk, this] at h
  cases h

theorem actAny_unknown {q : Request} (h : kindKnown q.kind = false) (s : State) : actAny q s = s.answer q (badKind q) := by
  unfold actAny
  rw [requestRuns_unknown h, if_neg]
  rintro hk
  rw [hk] at h
  exact absurd h (by decide)

/-- A row that takes the request at the head does what a turn of the executor does, when its work on that request is the
turn's. -/
theorem State.takeRequest_takeAny {s : State} {q : Request} {rest : List Request} (h : s.head q rest)
    {wanted : Request → Bool} (hw : wanted q = true) {act : Request → State → State}
    (hact : s.cached q = none → act q { s with inbound := rest } = actAny q { s with inbound := rest }) :
    s.takeRequest wanted act = s.takeAny := by
  unfold State.takeAny
  cases hc : s.cached q with
  | some e => rw [State.takeRequest_duplicate h hc hw, State.takeRequest_duplicate h hc rfl]
  | none => rw [State.takeRequest_fresh ⟨h, hc⟩ hw, State.takeRequest_fresh ⟨h, hc⟩ rfl, hact hc]

theorem State.executeKind_takeAny {s : State} {q : Request} {rest : List Request} (h : s.head q rest) {kind : Byte}
    {run : List Byte → State → Reply × State} (hk : q.kind = kind) (hr : kind ≠ kindReset)
    (hf : (requestRuns.find? fun r => r.1 == kind) = some (kind, run)) : s.executeKind kind run = s.takeAny :=
  State.takeRequest_takeAny h (by simpa using hk) fun _ => by rw [actAny_run hk hr hf]

theorem actReset_refused {q : Request} (hk : q.kind = kindReset) (h : (resetRefusal q).isSome = true)
    (f : Request → State → State) (s : State) :
    (match resetRefusal q with | some r => s.answer q r | none => f q s) = actAny q s := by
  obtain ⟨r, hr⟩ := Option.isSome_iff_exists.1 h
  simp [actAny, hk, actResetChannels, hr]

/-- R189: every row of the executor that takes the request at the head makes the turn of the executor, but for a RESET of scope
FULL or STREAMS that is carried out. -/
theorem exec_takesHead {c : Instr} {s : State} {q : Request} {rest : List Request} (h : s.head q rest)
    (hc : c.isRequest = true) (ht : takenBy c q = true)
    (hr : c = .resetFull ∨ c = .resetStreams → s.cached q = none → (resetRefusal q).isSome = true) :
    exec c s = .next s.takeAny := by
  cases c
  case badKind =>
    exact congrArg _ (State.takeRequest_takeAny h ht fun _ => (actAny_unknown (by simpa [takenBy] using ht) _).symm)
  case resetFull =>
    have hk : q.kind = kindReset := by simp only [takenBy, takesReset, Bool.and_eq_true, beq_iff_eq] at ht; exact ht.1
    exact congrArg _ (State.takeRequest_takeAny h ht fun e => actReset_refused hk (hr (.inl rfl) e)
      (fun q s => s.fullReset q.tag) _)
  case resetStreams =>
    have hk : q.kind = kindReset := by simp only [takenBy, takesReset, Bool.and_eq_true, beq_iff_eq] at ht; exact ht.1
    exact congrArg _ (State.takeRequest_takeAny h ht fun e => actReset_refused hk (hr (.inr rfl) e)
      (fun q s => s.resetStreams.answer q (.ok (byte 1))) _)
  case resetChannels =>
    have hk : q.kind = kindReset := by simp only [takenBy, takesReset, Bool.and_eq_true, beq_iff_eq] at ht; exact ht.1
    exact congrArg _ (State.takeRequest_takeAny h ht fun _ => by simp [actAny, hk])
  case channelClearLatches | channelClearValue | channelClearQueue =>
    have hk : q.kind = kindChannelClear := by
      simp only [takenBy, takesClear, Bool.and_eq_true, beq_iff_eq] at ht; exact ht.1
    exact congrArg _ (State.takeRequest_takeAny h ht fun _ => by rw [actAny_run hk (by decide) rfl])
  all_goals first
    | cases hc; done
    | exact congrArg _ (State.executeKind_takeAny h (Option.some.inj (beq_iff_eq.1 ht)).symm (by decide) rfl)

/-- Some RESET row takes a RESET. -/
theorem reset_row (q : Request) (hk : q.kind = kindReset) : ∃ c : Instr, c.isRequest = true ∧ takenBy c q = true := by
  by_cases hr : (resetRefusal q).isSome = true
  · exact ⟨.resetChannels, rfl, by simp [takenBy, takesReset, hk, hr]⟩
  · have h2 : fieldAt q.payload 0 1 ≤ 2 := by
      unfold resetRefusal at hr
      split at hr
      · split at hr
        · simp at hr
        · omega
      · simp at hr
    have : fieldAt q.payload 0 1 = 0 ∨ fieldAt q.payload 0 1 = 1 ∨ fieldAt q.payload 0 1 = 2 := by omega
    rcases this with e | e | e
    · exact ⟨.resetFull, rfl, by simp [takenBy, takesReset, hk, e]⟩
    · exact ⟨.resetStreams, rfl, by simp [takenBy, takesReset, hk, e]⟩
    · exact ⟨.resetChannels, rfl, by simp [takenBy, takesReset, hk, e]⟩

/-- Some CHANNEL_CLEAR row takes a CHANNEL_CLEAR. -/
theorem clear_row (q : Request) (hk : q.kind = kindChannelClear) : ∃ c : Instr, c.isRequest = true ∧ takenBy c q = true := by
  have bits : ∀ n < 8, n ≠ 0 → n.testBit 0 = true ∨ n.testBit 1 = true ∨ n.testBit 2 = true := by decide
  by_cases h : (readClear q.payload).parts = 0 ∨ 7 < (readClear q.payload).parts
  · exact ⟨.channelClearLatches, rfl, by simp [takenBy, takesClear, hk, h]⟩
  · rcases bits (readClear q.payload).parts (by omega) (by omega) with e | e | e
    · exact ⟨.channelClearLatches, rfl, by simp [takenBy, takesClear, hk, e]⟩
    · exact ⟨.channelClearValue, rfl, by simp [takenBy, takesClear, hk, e]⟩
    · exact ⟨.channelClearQueue, rfl, by simp [takenBy, takesClear, hk, e]⟩

/-- R189, R192: some row of the executor takes any request. -/
theorem exists_row (q : Request) : ∃ c : Instr, c.isRequest = true ∧ takenBy c q = true := by
  have row : ∀ (c : Instr) (k : Byte), c.requestKind = some k → (takenBy c q = (some k == some q.kind)) → q.kind = k →
      ∃ c : Instr, c.isRequest = true ∧ takenBy c q = true :=
    fun c k hr ht hk => ⟨c, by simp [Instr.isRequest, hr], by rw [ht, hk]; simp⟩
  by_cases hk : kindKnown q.kind = true
  · simp only [kindKnown, requestLengths, List.any_cons, List.any_nil, Bool.or_false, Bool.or_eq_true, beq_iff_eq,
      @eq_comm _ _ q.kind] at hk
    rcases hk with h | h | h | h | h | h | h | h | h | h | h | h | h | h | h | h | h | h | h | h | h | h | h | h | h | h
    · exact row .ping _ rfl rfl h
    · exact row .timeGet _ rfl rfl h
    · exact reset_row q h
    · exact row .profileLoad _ rfl rfl h
    · exact row .profileDrop _ rfl rfl h
    · exact row .profileRead _ rfl rfl h
    · exact row .streamArm _ rfl rfl h
    · exact row .streamDisarm _ rfl rfl h
    · exact row .streamStatus _ rfl rfl h
    · exact row .mapAdd _ rfl rfl h
    · exact row .mapRemove _ rfl rfl h
    · exact row .mapCommit _ rfl rfl h
    · exact row .mapDiscard _ rfl rfl h
    · exact row .mapList _ rfl rfl h
    · exact row .channelBind _ rfl rfl h
    · exact row .channelUnbind _ rfl rfl h
    · exact row .channelSet _ rfl rfl h
    · exact row .channelRead _ rfl rfl h
    · exact clear_row q h
    · exact row .queueDrain _ rfl rfl h
    · exact row .rosterSet _ rfl rfl h
    · exact row .rosterRead _ rfl rfl h
    · exact row .rosterStart _ rfl rfl h
    · exact row .rosterStop _ rfl rfl h
    · exact row .noticeMask _ rfl rfl h
    · exact row .noticeGrant _ rfl rfl h
  · exact ⟨.badKind, rfl, by simpa [takenBy] using hk⟩

/-! ### The requests inside a bit (R15, R147) -/

theorem State.cached_isSome (s : State) (q : Request) :
    (s.cached q).isSome = true ↔ ∃ e ∈ s.cache, e.tag = q.tag ∧ e.kind = q.kind := by
  simp [State.cached, List.find?_isSome]

theorem fieldAt_head (b : Byte) (rest : List Byte) : fieldAt (b :: rest) 0 1 = b.toNat := by
  simp [fieldAt, readBE]

/-- R15: the requests that `Request.reaches` names. -/
theorem Request.reaches_iff (q : Request) (i : StreamId) : q.reaches i = true ↔ q.AtStream i := by
  have hi : i.index < 256 := by cases i <;> decide
  have byteEq : ∀ (b : Byte) n, n < 256 → b.toNat = n → b = BitVec.ofNat 8 n := by
    rintro b n _ rfl
    simp
  constructor
  · intro h
    simp only [Request.reaches, Bool.and_eq_true, Bool.or_eq_true, beq_iff_eq, decide_eq_true_eq] at h
    obtain ⟨hl, ⟨hk, hf⟩ | ⟨hk, hf⟩⟩ := h
    · rw [hk] at hl
      obtain ⟨b, hb⟩ := List.length_eq_one_iff.1 (length_eq_of_row hl (lo := 1) (by decide))
      rw [hb, fieldAt_head] at hf
      refine .inl ⟨hk, ?_⟩
      rw [hb]
      have : b.toNat = 0 ∨ b.toNat = 1 := by omega
      rcases this with e | e
      · exact .inl (by rw [byteEq b 0 (by omega) e]; rfl)
      · exact .inr (by rw [byteEq b 1 (by omega) e]; rfl)
    · rcases hk with (hk | hk) | hk <;> rw [hk] at hl
      · have h6 := length_eq_of_row hl (lo := 6) (by decide)
        refine .inr (.inl ⟨hk, h6, ?_⟩)
        cases hp : q.payload with
        | nil => simp [hp] at h6
        | cons b rest =>
          rw [hp, fieldAt_head] at hf
          rw [List.head?_cons, byteEq b _ hi hf]
      all_goals
        obtain ⟨b, hb⟩ := List.length_eq_one_iff.1 (length_eq_of_row hl (lo := 1) (by decide))
        rw [hb, fieldAt_head] at hf
        refine .inr (.inr ⟨by first | exact .inl hk | exact .inr hk, ?_⟩)
        rw [hb, byteEq b _ hi hf]
  · simp only [Request.reaches, Bool.and_eq_true, Bool.or_eq_true, beq_iff_eq, decide_eq_true_eq]
    have hn : (BitVec.ofNat 8 i.index).toNat = i.index := by simp; omega
    rintro (⟨hk, hp⟩ | ⟨hk, h6, hh⟩ | ⟨hk, hp⟩)
    · rcases hp with hp | hp <;> rw [hk, hp, fieldAt_head] <;> exact ⟨by decide, .inl ⟨rfl, by decide⟩⟩
    · cases hp : q.payload with
      | nil => simp [hp] at h6
      | cons b rest =>
        rw [hp, List.head?_cons, Option.some.injEq] at hh
        rw [hp] at h6
        rw [fieldAt_head, h6, hh, hn, hk]
        exact ⟨by decide, .inr ⟨.inl (.inl rfl), rfl⟩⟩
    · rw [hp, fieldAt_head, hn]
      rcases hk with hk | hk <;> rw [hk]
      · exact ⟨by simp; decide, .inr ⟨.inl (.inr rfl), rfl⟩⟩
      · exact ⟨by simp; decide, .inr ⟨.inr rfl, rfl⟩⟩

/-- R15, R189: where a turn of the executor may be made inside a bit. -/
theorem State.requestWaits_iff (s : State) (i : StreamId) :
    s.requestWaits i = true ↔ ∃ q rest, s.head q rest ∧ (q.AtStream i → (s.cached q).isSome = true) := by
  unfold State.requestWaits State.head
  split
  · rename_i h
    simp [h]
  · rename_i q rest hq
    simp only [Bool.and_eq_true, Bool.or_eq_true, decide_eq_true_eq, Bool.not_eq_true', hq, List.cons.injEq]
    constructor
    · rintro ⟨hr, h⟩
      refine ⟨q, rest, ⟨⟨rfl, rfl⟩, hr⟩, fun ha => ?_⟩
      rw [← Request.reaches_iff] at ha
      rcases h with h | h
      · exact h
      · rw [h] at ha; cases ha
    · rintro ⟨_, _, ⟨⟨rfl, rfl⟩, hr⟩, h⟩
      refine ⟨hr, ?_⟩
      by_cases ha : q.reaches i = true
      · exact .inl (h ((Request.reaches_iff _ _).1 ha))
      · exact .inr (by simpa using ha)

/-- R147, R189: a turn of the executor inside a bit is made exactly where a request waits that may be taken there, and it is
`State.takeAny`. -/
theorem State.turnTo_iff {s : State} {i : StreamId} {v : State} :
    s.TurnTo i v ↔ s.requestWaits i = true ∧ v = s.takeAny := by
  rw [State.requestWaits_iff]
  have row : ∀ {c : Instr} {q : Request} {rest : List Request}, s.head q rest → c.isRequest = true → takenBy c q = true →
      (q.AtStream i → (s.cached q).isSome = true) → exec c s = .next s.takeAny := by
    intro c q rest h hc ht ha
    refine exec_takesHead h hc ht fun hcc hn => ?_
    by_contra hr
    have hz : ∀ n < 2, takenBy c q = takesReset n q → q.AtStream i := by
      intro n hn2 he
      rw [he] at ht
      simp only [takesReset, Bool.and_eq_true, beq_iff_eq, Bool.or_eq_true, hr, decide_eq_true_eq, false_or] at ht
      refine (Request.reaches_iff q i).1 ?_
      have hl : lengthAllowed q.kind q.payload.length = true := by
        by_contra hl
        simp [resetRefusal, hl] at hr
      rw [ht.1] at hl
      simp [Request.reaches, ht.1, ht.2, hl, hn2]
    have := ha (hcc.elim (fun e => hz 0 (by omega) (by rw [e]; rfl)) (fun e => hz 1 (by omega) (by rw [e]; rfl)))
    rw [hn] at this
    cases this
  constructor
  · rintro ⟨c, q, rest, h, hc, ht, ha, he⟩
    have ha' : q.AtStream i → (s.cached q).isSome = true := fun x => (State.cached_isSome s q).2 (ha x)
    refine ⟨⟨q, rest, h, ha'⟩, ?_⟩
    rw [row h hc ht ha'] at he
    cases he
    rfl
  · rintro ⟨⟨q, rest, h, ha⟩, rfl⟩
    obtain ⟨c, hc, ht⟩ := exists_row q
    exact ⟨c, q, rest, h, hc, ht, fun x => (State.cached_isSome s q).1 (ha x), row h hc ht ha⟩

end Sys2Proof.Machine
end

