-- ==== Sys2Proof/Laws/StreamWork.lean ====
section
/-! SUPPORT. What the work of one stream can touch: a property kept by its eight primitive changes is kept by every event and
request that acts on a stream. -/

namespace Sys2Proof.Machine

/-- A property that the five primitive changes of a stream's stop keep: its two records, raises, staleness, a commit's
application. -/
structure StreamChanges (i : StreamId) (P : State → Prop) : Prop where
  syn : ∀ s y, P s → P (s.setSyn i y)
  trk : ∀ s t, P s → P (s.setTrk i t)
  raise : ∀ s rs, P s → P (s.raiseAll rs)
  stale : ∀ s why, P s → P (s.staleStream i why)
  commit : ∀ s, P s → (s.stage.get i).pending = true → P (s.applyCommit i)

/-- A property that the changes of a stream's work keep: those of `StreamChanges`, a release, a boundary at the rosters, and a
request or a send taken between two releases. -/
structure StreamWork (i : StreamId) (P : State → Prop) : Prop extends StreamChanges i P where
  send : ∀ s, P s → P s.sendInside
  release : ∀ s c raw, P s → P (s.release i c raw)
  boundary : ∀ s n, P s → P (s.rosterBoundary i n)
  turn : ∀ s, P s → P (s.takeTurn i)
  counted : ∀ s n, P s → P { s with draws := n }

variable {i : StreamId} {P : State → Prop}

theorem StreamChanges.raiseSync (w : StreamChanges i P) {s : State} (h : P s) (why : SyncReason) : P (s.raiseSync i why) :=
  w.raise _ _ (w.syn _ _ h)

theorem StreamChanges.settlePending (w : StreamChanges i P) {s : State} (h : P s) : P (s.settlePending i) := by
  unfold State.settlePending
  split
  · rename_i hp
    exact w.raise _ _ (w.commit _ h hp)
  · exact h

theorem StreamChanges.extractionStop (w : StreamChanges i P) {s : State} (h : P s) (why : StaleReason) :
    P (s.extractionStop i why) :=
  w.settlePending (w.stale _ _ (w.trk _ _ h))

theorem StreamChanges.frameBegin (w : StreamChanges i P) {s : State} (h : P s) (p : Profile) (c : Bool) :
    P (s.frameBegin i p c) := w.trk _ _ h

theorem StreamChanges.gainLock (w : StreamChanges i P) {s : State} (h : P s) (k : Slot) (p : Profile) : P (s.gainLock i k p) :=
  w.raiseSync (w.frameBegin (w.trk _ _ (w.syn _ _ h)) p false) _

theorem StreamChanges.loseLock (w : StreamChanges i P) {s : State} (h : P s) (why : SyncReason) : P (s.loseLock i why) :=
  w.extractionStop (w.raiseSync (w.trk _ _ (w.syn _ _ h)) why) _

theorem StreamChanges.coastOn (w : StreamChanges i P) {s : State} (h : P s) (p : Profile) (m : Nat) (raised : Bool) :
    P (s.coastOn i p m raised) := by
  unfold State.coastOn
  refine w.frameBegin ?_ p true
  split
  · exact w.raiseSync (w.syn _ _ h) _
  · exact w.syn _ _ h

theorem StreamChanges.verifyPosition (w : StreamChanges i P) {s : State} (h : P s) (k : Slot) (p : Profile) :
    P (s.verifyPosition i k p) := by
  unfold State.verifyPosition
  split
  · split
    · exact w.syn _ _ h
    · exact w.gainLock h k p
  · exact w.syn _ _ h

theorem StreamChanges.lockedPosition (w : StreamChanges i P) {s : State} (h : P s) (p : Profile) : P (s.lockedPosition i p) := by
  unfold State.lockedPosition
  split
  · exact w.frameBegin (w.syn _ _ h) p false
  · split
    · exact w.coastOn h p 1 true
    · exact w.loseLock h _

theorem StreamChanges.coastPosition (w : StreamChanges i P) {s : State} (h : P s) (p : Profile) : P (s.coastPosition i p) := by
  unfold State.coastPosition
  split
  · exact w.frameBegin (w.raiseSync (w.syn _ _ h) _) p false
  · split
    · exact w.coastOn h p _ false
    · exact w.loseLock h _

theorem StreamChanges.expectedPosition (w : StreamChanges i P) {s : State} (h : P s) (k : Slot) (p : Profile) :
    P (s.expectedPosition i k p) := by
  unfold State.expectedPosition
  have ht := w.syn s { s.syn.get i with bitsToSync := 0, frameTime := some s.timebase } h
  simp only
  split
  · exact w.verifyPosition ht k p
  · exact w.lockedPosition ht p
  · exact w.coastPosition ht p
  · exact ht
  · exact ht
  · exact ht

theorem StreamChanges.idHandling (w : StreamChanges i P) {s : State} (h : P s) (p : Profile) : P (s.idHandling i p) := by
  unfold State.idHandling
  simp only
  split
  · exact w.trk _ _ h
  · exact w.raiseSync (w.trk _ _ h) _
  · exact w.extractionStop (w.raiseSync (w.trk _ _ h) _) _

theorem StreamChanges.mapLookup (w : StreamChanges i P) {s : State} (h : P s) (k : Slot) (p : Profile) :
    P (s.mapLookup i k p) := by
  unfold State.mapLookup
  split
  · exact h
  · exact w.trk _ _ h

/-- R147: the requests taken after a release. -/
theorem StreamWork.requestsBetween (w : StreamWork i P) {s : State} (h : P s) : P (s.requestsBetween i) := by
  unfold State.requestsBetween
  split
  · generalize min (Config.requestsFall s.sendInside.draws) s.inbound.length = n
    have hd := w.counted _ (s.sendInside.draws + 1) (w.send s h)
    generalize ({ s.sendInside with draws := s.sendInside.draws + 1 } : State) = u at hd ⊢
    induction n generalizing u with
    | zero => exact hd
    | succ n ih => exact ih _ (w.turn u hd)
  · exact h

theorem StreamWork.releaseAll (w : StreamWork i P) {s : State} (h : P s) (t : Tracker) (g : List Staged) :
    P (State.releaseAll i t s g) := by
  induction g generalizing s with
  | nil => exact h
  | cons g rest ih => exact ih (w.requestsBetween (w.release _ _ _ h))

theorem StreamWork.majorBoundary (w : StreamWork i P) {s : State} (h : P s) : P (s.majorBoundary i) :=
  w.settlePending (w.boundary _ _ (w.trk _ _ h))

theorem StreamWork.minorFrameEnd (w : StreamWork i P) {s : State} (h : P s) (p : Profile) : P (s.minorFrameEnd i p) := by
  unfold State.minorFrameEnd
  have hc := fun t y => w.syn _ y (w.trk s t h)
  have hr : ∀ (c : Bool) u t g, P u → P (if c then State.releaseAll i t u g else u) := by
    intro c u t g hu
    split
    · exact w.releaseAll hu t g
    · exact hu
  simp only
  split
  · exact w.majorBoundary (hr _ _ _ _ (hc _ _))
  · exact hr _ _ _ _ (hc _ _)

theorem StreamWork.wordComplete (w : StreamWork i P) {s : State} (h : P s) (k : Slot) (p : Profile) :
    P (s.wordComplete i k p) := by
  have ha : P (if p.idPosition = some (s.trk.get i).wordPos then s.idHandling i p else s) := by
    split
    · exact w.idHandling h p
    · exact h
  have hb : ∀ a, P a → P (if (a.trk.get i).extracting then a.mapLookup i k p else a) := by
    intro a ha
    split
    · exact w.mapLookup ha k p
    · exact ha
  unfold State.wordComplete
  simp only
  split
  · exact w.minorFrameEnd (hb _ ha) p
  · exact w.trk _ _ (hb _ ha)

theorem StreamWork.trackerBit (w : StreamWork i P) {s : State} (h : P s) (bit : Bool) : P (s.trackerBit i bit) := by
  unfold State.trackerBit
  split
  · exact h
  · split
    · exact h
    · split
      · exact w.trk _ _ h
      · exact w.wordComplete (w.trk _ _ h) _ _

theorem StreamWork.followBit (w : StreamWork i P) {s : State} (h : P s) (k : Slot) (p : Profile) (bit : Bool) :
    P (s.followBit i k p bit) := by
  unfold State.followBit
  split
  · exact w.expectedPosition h k p
  · simp only
    split
    · exact w.trackerBit (w.syn _ _ h) _
    · exact w.syn _ _ h

theorem StreamWork.follow (w : StreamWork i P) {s : State} (h : P s) (bit : Bool) : P (s.follow i bit) := by
  unfold State.follow
  split
  · exact h
  · split
    · exact h
    · exact w.followBit h _ _ bit

/-- R15: a bit arrival. -/
theorem StreamWork.bitArrival (w : StreamWork i P) {s : State} (h : P s) (bit : Bool) : P (s.bitArrival i bit) := by
  unfold State.bitArrival
  split
  · exact h
  · have hr := w.syn s ((s.syn.get i).record bit s.timebase) h
    unfold State.bitWork
    split
    · exact hr
    · unfold State.search
      split
      · exact hr
      · exact w.syn _ _ hr
    · exact w.follow hr bit
    · exact w.follow hr bit
    · exact w.follow hr bit
    · exact hr

/-- R31, R32: an idle expiry. -/
theorem StreamChanges.idleExpiry (w : StreamChanges i P) {s : State} (h : P s) : P (s.idleExpiry i) := by
  unfold State.idleExpiry
  split
  · have hr := w.syn s { s.syn.get i with bitsFlowing := false, idleTimer := none } h
    unfold State.idleEffect
    split
    · exact hr
    · exact hr
    · exact w.syn _ _ hr
    · exact w.loseLock hr _
    · exact w.loseLock hr _
    · exact hr
  · exact h

/-- R28, R29: a window expiry. -/
theorem StreamChanges.windowExpiry (w : StreamChanges i P) {s : State} (h : P s) : P (s.windowExpiry i) := by
  unfold State.windowExpiry
  split
  · split
    · exact w.raiseSync (w.syn _ _ h) _
    · exact w.raiseSync (w.syn _ _ h) _
  · exact h

/-- R36, R42: a disarm. -/
theorem StreamChanges.disarm (w : StreamChanges i P) {s : State} (h : P s) (why : SyncReason) : P (s.disarm i why) :=
  w.extractionStop (w.raiseSync (w.trk _ _ (w.syn _ _ h)) why) _

/-- R42: a STREAMS reset of one stream. -/
theorem StreamChanges.resetStream (w : StreamChanges i P) {s : State} (h : P s) : P (s.resetStream i) := by
  unfold State.resetStream
  refine w.trk _ _ (w.syn _ _ ?_)
  split
  · exact h
  · exact w.disarm h _

/-! ### What stays inside a bit (R15) -/

/-- The work of one stream leaves the records of the other. -/
theorem StreamChanges.records {i j : StreamId} (h : i ≠ j) (y : Syn) (t : Tracker) :
    StreamChanges j fun s => s.syn.get i = y ∧ s.trk.get i = t where
  syn s v hs := ⟨(PerStream.get_set_ne _ h _).trans hs.1, hs.2⟩
  trk s v hs := ⟨hs.1, (PerStream.get_set_ne _ h _).trans hs.2⟩
  raise _ _ hs := by simpa using hs
  stale s why hs := by simpa [State.staleStream] using hs
  commit s hs _ := by simpa [State.applyCommit] using hs

/-- A stream number in range other than `i` names the other stream. -/
theorem StreamId.ofField_ne {n : Nat} {i : StreamId} (hn : ¬ 1 < n) (h : n ≠ i.index) : i ≠ .ofField n := by
  have : n = 0 ∨ n = 1 := by omega
  rcases this with rfl | rfl <;> cases i <;> first | exact absurd rfl h | (intro e; cases e)

/-- R15: a request that does not reach the stream leaves its synchronizer and its tracker as they were. -/
theorem actAny_records {q : Request} {i : StreamId} (h : q.reaches i = false) (s : State) :
    (actAny q s).syn.get i = s.syn.get i ∧ (actAny q s).trk.get i = s.trk.get i := by
  unfold actAny
  split
  · unfold actResetChannels
    split
    · exact ⟨rfl, rfl⟩
    · simp [State.answer, State.resetChannels]
  · split
    · rename_i r hr
      rcases runChecked_cases r.2 q s with e | ⟨hl, e⟩ <;> rw [e]
      · exact ⟨rfl, rfl⟩
      · show ((r.2 q.payload s).2.syn.get i) = _ ∧ ((r.2 q.payload s).2.trk.get i) = _
        have hk : r.1 = q.kind := by simpa using List.find?_some hr
        have hf : (q.kind = kindStreamArm ∨ q.kind = kindStreamDisarm) → fieldAt q.payload 0 1 ≠ i.index := by
          intro hk hf
          rcases hk with hk | hk <;> simp_all [Request.reaches]
        have hrun : (requestRuns.find? fun r => r.1 == q.kind) = some r := hr
        by_cases ha : q.kind = kindStreamArm
        · rw [ha] at hrun
          cases Option.some.inj (hrun.symm.trans rfl : some r = some (kindStreamArm, runStreamArm))
          have hf := hf (.inl ha)
          simp only [runStreamArm]
          split
          · exact ⟨rfl, rfl⟩
          · rename_i hfail
            split
            · exact ⟨rfl, rfl⟩
            · split
              · have hne : i ≠ .ofField (readArm q.payload).stream := by
                  refine StreamId.ofField_ne (fun hgt => ?_) hf
                  simp [ArmFields.failing, firstFailing, hgt] at hfail
                exact (StreamChanges.records hne _ _).raiseSync ((StreamChanges.records hne _ _).syn _ _ ⟨rfl, rfl⟩) _
              · exact ⟨rfl, rfl⟩
        · by_cases hd : q.kind = kindStreamDisarm
          · rw [hd] at hrun
            cases Option.some.inj (hrun.symm.trans rfl : some r = some (kindStreamDisarm, runStreamDisarm))
            have hf := hf (.inr hd)
            simp only [runStreamDisarm]
            split
            · exact ⟨rfl, rfl⟩
            · rename_i hfail
              simp only
              split
              · exact ⟨rfl, rfl⟩
              · have hne : i ≠ .ofField (fieldAt q.payload 0 1) := by
                  refine StreamId.ofField_ne (fun hgt => ?_) hf
                  simp [fieldZeroFailing, hgt] at hfail
                exact (StreamChanges.records hne _ _).disarm ⟨rfl, rfl⟩ _
          · have hm := requestRuns_streams r (List.mem_of_find?_eq_some hr) (hk ▸ ha) (hk ▸ hd) q.payload s
            rw [hm.1, hm.2]
            exact ⟨rfl, rfl⟩
    · exact ⟨rfl, rfl⟩

/-- R15: a turn of the executor inside a bit of the stream. -/
theorem State.takeTurn_records (s : State) (i : StreamId) :
    (s.takeTurn i).syn.get i = s.syn.get i ∧ (s.takeTurn i).trk.get i = s.trk.get i := by
  unfold State.takeTurn
  split
  · rename_i h
    obtain ⟨q, rest, hq, ha⟩ := (State.requestWaits_iff s i).1 h
    unfold State.takeAny
    cases hc : s.cached q with
    | some e => rw [State.takeRequest_duplicate hq hc rfl]; exact ⟨rfl, rfl⟩
    | none =>
      rw [State.takeRequest_fresh ⟨hq, hc⟩ rfl]
      refine actAny_records ?_ _
      by_contra hr
      have := ha ((Request.reaches_iff q i).1 (by simpa using hr))
      rw [hc] at this
      cases this
  · exact ⟨rfl, rfl⟩

theorem State.requestsBetween_records (s : State) (i : StreamId) :
    (s.requestsBetween i).syn.get i = s.syn.get i ∧ (s.requestsBetween i).trk.get i = s.trk.get i := by
  have h : ∀ n (u : State), ((State.takeTurn i)^[n] u).syn.get i = u.syn.get i
      ∧ ((State.takeTurn i)^[n] u).trk.get i = u.trk.get i := by
    intro n
    induction n with
    | zero => exact fun u => ⟨rfl, rfl⟩
    | succ n ih =>
      intro u
      have ht := u.takeTurn_records i
      exact ⟨(ih _).1.trans ht.1, (ih _).2.trans ht.2⟩
  unfold State.requestsBetween
  split
  · have hn := h (min (Config.requestsFall s.sendInside.draws) s.inbound.length)
      { s.sendInside with draws := s.sendInside.draws + 1 }
    simpa using hn
  · exact ⟨rfl, rfl⟩

/-! ### The inbound queue after a turn (R189) -/

/-- The work of a request leaves the inbound queue alone. -/
theorem inbound_runs (l : List Request) : RunsKeep fun u => u.inbound = l := by
  have keeps : ∀ run : List Byte → State → Reply × State, (∀ p s, (run p s).2.inbound = s.inbound) →
      ∀ p s, s.inbound = l → (run p s).2.inbound = l := fun _ h p s e => (h p s).trans e
  have disarm : ∀ p s, (runStreamDisarm p s).2.inbound = s.inbound := by
    intro p s
    unfold runStreamDisarm
    split
    · rfl
    · dsimp only
      split
      · rfl
      · have w : ∀ i, StreamChanges i fun u => u.inbound = s.inbound := fun i =>
          { syn := fun _ _ h => h, trk := fun _ _ h => h, raise := fun _ _ h => by simpa using h
            stale := fun s w h => by simpa [State.staleStream] using h
            commit := fun s h _ => by simpa [State.applyCommit] using h }
        exact (w _).disarm rfl _
  refine ⟨fun _ _ h => h, fun s h => by simpa [State.resetChannels] using h, fun p s _ => keeps _ ?_ p s,
    fun p s _ => keeps _ ?_ p s, fun p s _ => keeps _ ?_ p s, fun p s _ => keeps _ disarm p s, fun p s _ => keeps _ ?_ p s,
    fun p s _ => keeps _ ?_ p s, fun p s _ => keeps _ ?_ p s, fun p s _ => keeps _ ?_ p s, fun p s _ => keeps _ ?_ p s,
    fun p s _ => keeps _ ?_ p s, fun p s _ => keeps _ ?_ p s, fun p s _ => keeps _ ?_ p s, fun p s _ => keeps _ ?_ p s,
    fun p s _ _ => keeps _ ?_ p s, fun p s _ => keeps _ ?_ p s, fun p s _ => keeps _ ?_ p s, fun p s _ => keeps _ ?_ p s,
    fun p s _ => keeps _ ?_ p s⟩
  all_goals
    intro p s
    simp only [runProfileLoad, runProfileDrop, runStreamArm, runMapAdd, runMapRemove, runMapCommit, runMapDiscard,
      runChannelBind, runChannelUnbind, runChannelSet, runChannelClear, runQueueDrain, runRosterSet, runRosterStart,
      runRosterStop, runNoticeMask, runNoticeGrant, State.stageEdit, State.commit]
    repeat' split
    all_goals first | rfl | exact State.raiseAll_inbound _ _

/-- R189: a turn takes the head request off the queue, and no other. -/
theorem State.takeAny_inbound {s : State} {q : Request} {rest : List Request} (h : s.head q rest) :
    s.takeAny.inbound = rest := by
  unfold State.takeAny
  cases hc : s.cached q with
  | some e => rw [State.takeRequest_duplicate h hc rfl]
  | none =>
    rw [State.takeRequest_fresh ⟨h, hc⟩ rfl]
    obtain ⟨u, r, hu, e⟩ := (inbound_runs rest).actAny (s := { s with inbound := rest }) rfl q
    rw [e]
    exact hu

end Sys2Proof.Machine
end

