-- ==== Sys2Proof/Laws/Exec.lean ====
section
/-! SUPPORT. What a command can do: a property kept by each change a command can make is kept by `exec`. -/

namespace Sys2Proof.Machine

/-- The changes commands make beside those of requests. A property that all of them keep is kept by every command
(`ExecKeeps.exec`). -/
structure ExecKeeps (P : State → Prop) : Prop extends RequestKeeps P where
  time : ∀ s n, P s → P { s with timebase := n }
  bitArrival : ∀ s i b, P s → P (s.bitArrival i b)
  idleExpiry : ∀ s i, P s → P (s.idleExpiry i)
  windowExpiry : ∀ s i, P s → P (s.windowExpiry i)
  resetStreams : ∀ s, P s → P s.resetStreams
  powerOn : ∀ s t, P s → P (s.powerOn t)
  fullReset : ∀ s tag, P s → P (s.fullReset tag)
  staleExpiry : ∀ s c, P s → P (s.staleExpiry c)
  noticeSend : ∀ s, P s → P s.noticeSend

variable {P : State → Prop}

theorem ExecKeeps.byteArrival (k : ExecKeeps P) {s : State} (h : P s) (b : LineByte) : P (s.byteArrival b) := by
  unfold State.byteArrival
  split
  · exact k.link s _ _ s.replies s.cache s.ready s.tx h
  · unfold State.dropPartial
    split
    · exact h
    · exact k.link s _ s.inbound s.replies s.cache s.ready s.tx h

theorem ExecKeeps.gapExpiry (k : ExecKeeps P) {s : State} (h : P s) : P s.gapExpiry := by
  unfold State.gapExpiry
  split
  · unfold State.dropPartial
    split
    · exact h
    · exact k.link s _ s.inbound s.replies s.cache s.ready s.tx h
  · exact h

theorem ExecKeeps.sendReady (k : ExecKeeps P) {s : State} (h : P s) : P s.sendReady := by
  unfold State.sendReady
  split
  · split
    · exact k.link s s.rx s.inbound s.replies s.cache _ _ h
    · exact h
  · exact h

theorem ExecKeeps.sendReply (k : ExecKeeps P) {s : State} (h : P s) : P s.sendReply := by
  unfold State.sendReply
  split
  · split
    · exact k.link s s.rx s.inbound _ s.cache s.ready _ h
    · exact h
  · exact h

/-- A property that both streams' work and a send keep is kept by a STREAMS reset. -/
theorem StreamChanges.resetStreams (w : ∀ i, StreamChanges i P) (send : ∀ s, P s → P s.sendInside) {s : State} (h : P s) :
    P s.resetStreams := send _ ((w .s1).resetStream ((w .s0).resetStream h))

/-- A property that a send and the count of free values keep is kept by a send inside a step. -/
theorem State.sendInside_keeps (draws : ∀ s n, P s → P { s with draws := n }) (send : ∀ s, P s → P s.noticeSend) {s : State}
    (h : P s) : P s.sendInside := by
  rcases s.sendInside_cases with ⟨-, e⟩ | ⟨-, e | e⟩ <;> rw [e]
  · exact h
  · exact draws _ _ h
  · exact send _ (draws _ _ h)

/-- R64, R112: the raises of an extraction stop, and the sends inside it. -/
theorem State.extractionStop_alike (s : State) (i : StreamId) (why : StaleReason) : (s.extractionStop i why).alike
    (s.raiseAll (s.staleRaises i why ++ if (s.stage.get i).pending then [s.mapApplied i] else [])) := by
  have stale : ((s.setTrk i { s.trk.get i with assembly := [], staging := [] }).staleStream i why).alike
      (s.raiseAll (s.staleRaises i why)) := State.raiseAll_alike (by simp [State.alike]) _
  unfold State.extractionStop State.settlePending
  have hs : ((s.setTrk i { s.trk.get i with assembly := [], staging := [] }).staleStream i why).stage = s.stage := by
    simp [State.staleStream]
  have hm : ((s.setTrk i { s.trk.get i with assembly := [], staging := [] }).staleStream i why).map = s.map := by
    simp [State.staleStream]
  generalize (s.setTrk i { s.trk.get i with assembly := [], staging := [] }).staleStream i why = u at *
  have ha : u.mapApplied i = s.mapApplied i := by simp only [State.mapApplied, State.applyCommit, State.mapChannels_map, hm, hs]
  rw [State.raiseAll_append, hs]
  split
  · rw [ha]
    refine State.raiseAll_alike ?_ _
    simpa [State.alike, State.applyCommit] using stale
  · exact stale

/-- R39, R42, R183: the raises of the reset of one stream, and the sends inside it: SYNC_STATE with reason RESET, the STALE
notices, MAP_APPLIED. -/
theorem State.resetStream_alike (s : State) (i : StreamId) : (s.resetStream i).alike
    (s.raiseAll (if (s.syn.get i).mode = .off then [] else
      .syncState i (((s.setSyn i (s.syn.get i).turnOff).setTrk i (s.trk.get i).drop).syncReport i .reset)
        :: (s.staleRaises i .disarmed ++ if (s.stage.get i).pending then [s.mapApplied i] else []))) := by
  unfold State.resetStream
  by_cases h : (s.syn.get i).mode = .off
  · simp only [h, if_true]
    exact ⟨rfl, rfl, rfl, rfl, rfl⟩
  · simp only [h, if_false]
    unfold State.disarm
    have hr : ∀ u : State, u.channels = s.channels → u.staleRaises i .disarmed = s.staleRaises i .disarmed := fun u hu => by
      simp only [State.staleRaises, State.channel, hu]
    have hm : ∀ u : State, u.map = s.map → u.stage = s.stage → u.mapApplied i = s.mapApplied i := fun u h1 h2 => by
      simp only [State.mapApplied, State.applyCommit, State.mapChannels_map, h1, h2]
    obtain ⟨v, hv, ha⟩ : ∃ v : State, v = (((s.setSyn i (s.syn.get i).turnOff).setTrk i (s.trk.get i).drop).raiseSync i .reset) ∧
        v.alike (s.raiseAll
          [.syncState i (((s.setSyn i (s.syn.get i).turnOff).setTrk i (s.trk.get i).drop).syncReport i .reset)]) :=
      ⟨_, rfl, by unfold State.raiseSync; exact State.raiseAll_alike (by simp [State.alike]) _⟩
    have hc : v.channels = s.channels ∧ v.map = s.map ∧ v.stage = s.stage := by
      rw [hv]
      exact ⟨State.raiseAll_channels _ _, State.raiseAll_map _ _, State.raiseAll_stage _ _⟩
    rw [← hv]
    have e := v.extractionStop_alike i .disarmed
    rw [hr v hc.1, hm v hc.2.1 hc.2.2, hc.2.2] at e
    have e2 := State.raiseAll_alike ha (s.staleRaises i .disarmed ++ if (s.stage.get i).pending then [s.mapApplied i] else [])
    obtain ⟨a1, a2, a3, a4, a5⟩ := e
    obtain ⟨b1, b2, b3, b4, b5⟩ := e2
    exact ⟨a1.trans b1, a2.trans b2, a3.trans b3, a4.trans b4, a5.trans b5⟩

/-- A property that every change a command can make keeps is kept by every command. -/
theorem ExecKeeps.exec (k : ExecKeeps P) {c : Instr} {s t : State} (h : P s) (he : exec c s = .next t) : P t := by
  have next : ∀ {x : State}, (Host.Outcome.next x : Host.Outcome State Fault Refusal) = .next t → P x → P t := by
    intro x e hx
    cases e
    exact hx
  cases c with
  | powerOnReset straps => exact next he (k.powerOn s straps h)
  | bitArrival i bit => exact next he (k.bitArrival s i bit h)
  | idleExpiry i => exact next he (k.idleExpiry s i h)
  | windowExpiry i => exact next he (k.windowExpiry s i h)
  | staleTimerExpiry n =>
    simp only [Machine.exec, execStaleTimerExpiry] at he
    split at he
    · exact next he (k.staleExpiry s _ h)
    · cases he
  | frameReceived bytes =>
    refine next he ?_
    clear he next
    induction bytes generalizing s with
    | nil => exact h
    | cons b bs ih => exact ih (k.byteArrival h b)
  | gapTimerExpiry => exact next he (k.gapExpiry h)
  | sendReady => exact next he (k.sendReady h)
  | sendReply => exact next he (k.sendReply h)
  | noticeSend => exact next he (k.noticeSend s h)
  | frameSent => exact next he (k.link s s.rx s.inbound s.replies s.cache s.ready none h)
  | ping => exact next he (k.row (by simp [requestRuns]) h)
  | timeGet => exact next he (k.row (by simp [requestRuns]) h)
  | resetFull =>
    refine next he (k.takeRequest (fun q s _ hs => ?_) h)
    exact k.actReset (fun q s hs => k.fullReset s q.tag hs) hs
  | resetStreams =>
    refine next he (k.takeRequest (fun q s _ hs => ?_) h)
    exact k.actReset (fun q s hs => k.answer (k.resetStreams s hs) q _) hs
  | resetChannels =>
    refine next he (k.takeRequest (fun q s _ hs => ?_) h)
    exact k.actReset (fun q s hs => k.answer (k.resetChannels s hs) q _) hs
  | profileLoad => exact next he (k.row (by simp [requestRuns]) h)
  | profileDrop => exact next he (k.row (by simp [requestRuns]) h)
  | profileRead => exact next he (k.row (by simp [requestRuns]) h)
  | streamArm => exact next he (k.row (by simp [requestRuns]) h)
  | streamDisarm => exact next he (k.row (by simp [requestRuns]) h)
  | streamStatus => exact next he (k.row (by simp [requestRuns]) h)
  | mapAdd => exact next he (k.row (by simp [requestRuns]) h)
  | mapRemove => exact next he (k.row (by simp [requestRuns]) h)
  | mapCommit => exact next he (k.row (by simp [requestRuns]) h)
  | mapDiscard => exact next he (k.row (by simp [requestRuns]) h)
  | mapList => exact next he (k.row (by simp [requestRuns]) h)
  | channelBind => exact next he (k.row (by simp [requestRuns]) h)
  | channelUnbind => exact next he (k.row (by simp [requestRuns]) h)
  | channelSet => exact next he (k.row (by simp [requestRuns]) h)
  | channelRead => exact next he (k.row (by simp [requestRuns]) h)
  | channelClearLatches => exact next he (k.channelClearRow 0 h)
  | channelClearValue => exact next he (k.channelClearRow 1 h)
  | channelClearQueue => exact next he (k.channelClearRow 2 h)
  | queueDrain => exact next he (k.row (by simp [requestRuns]) h)
  | rosterSet => exact next he (k.row (by simp [requestRuns]) h)
  | rosterRead => exact next he (k.row (by simp [requestRuns]) h)
  | rosterStart => exact next he (k.row (by simp [requestRuns]) h)
  | rosterStop => exact next he (k.row (by simp [requestRuns]) h)
  | noticeMask => exact next he (k.row (by simp [requestRuns]) h)
  | noticeGrant => exact next he (k.row (by simp [requestRuns]) h)
  | badKind => exact next he (k.takeRequest (fun q s _ hs => k.answer hs q _) h)
  | byteArrival b => exact next he (k.byteArrival h b)
  | timebaseTick => exact next he (k.time s _ h)

/-- The same of one step, for a property the queue of commands does not touch. -/
theorem ExecKeeps.step (k : ExecKeeps P) (hp : ∀ s q, P s → P { s with pending := q }) {s t : State} (h : P s)
    (he : step s = .next t) : P t := by
  unfold Machine.step at he
  split at he
  · cases he; exact h
  · exact k.exec (hp s _ h) he

end Sys2Proof.Machine
end

