-- ==== Sys2Proof/Laws/Link.lean ====
section
/-! SUPPORT. The receiver: what one byte can do, that it keeps its shape, and that the re-taking of a discarded frame ends
within its bound. -/

namespace Sys2Proof.Machine

theorem Receiver.shaped_reset : Receiver.reset.shaped := ⟨rfl, rfl⟩

/-- What one byte can do to a receiver of legal shape (R185, R186). -/
theorem Receiver.take_shaped {r : Receiver} (h : r.shaped) (b : Byte) :
    (∃ r', r.take b = .stay r' ∧ r'.shaped ∧ r'.buffer.length ≤ r.buffer.length + 1)
    ∨ (∃ body, r.take b = .frame body ∧ 2 ≤ body.length ∧ body.length ≤ 250)
    ∨ (∃ stored, r.take b = .discard stored ∧ stored.length = r.buffer.length) := by
  unfold Receiver.take
  unfold Receiver.shaped at h
  cases hm : r.mode with
  | seek =>
    simp only [hm] at h
    by_cases hb : b = startByte
    · refine .inl ⟨_, if_pos hb, ?_, ?_⟩
      · exact ⟨h.2, [], by rw [hb], by simp⟩
      · simp
    · refine .inl ⟨_, if_neg hb, ?_, by simp⟩
      unfold Receiver.shaped
      simp only [hm]
      exact h
  | length =>
    simp only [hm] at h
    obtain ⟨hl, rest, hbuf, hrest⟩ := h
    unfold Receiver.takeLength
    by_cases h2 : r.buffer.length < 2
    · refine .inl ⟨_, if_pos h2, ?_, by simp⟩
      unfold Receiver.shaped
      simp only [hm]
      refine ⟨hl, rest ++ [b], by rw [hbuf]; rfl, ?_⟩
      rw [hbuf] at h2
      simp at h2 ⊢
      omega
    · rw [if_neg h2]
      have hr1 : rest.length = 1 := by rw [hbuf, List.length_cons] at h2; omega
      by_cases hlen : 2 ≤ readBE (r.buffer.tail ++ [b]) ∧ readBE (r.buffer.tail ++ [b]) ≤ 250
      · rw [if_pos hlen]
        refine .inl ⟨_, rfl, ?_, by simp⟩
        refine ⟨hlen.1, hlen.2, rest ++ [b], by simp [hbuf], ?_, by simp [hr1], ?_⟩
        · rw [List.take_of_length_le (by simp [hr1])]
          simp [hbuf]
        · have h2' := hlen.1
          rw [List.length_append, hr1]
          change 2 < 2 + readBE (r.buffer.tail ++ [b])
          omega
      · rw [if_neg hlen]
        exact .inr (.inr ⟨_, rfl, by simp [hbuf, hr1]⟩)
  | body =>
    simp only [hm] at h
    obtain ⟨hl2, hl, rest, hbuf, hread, hr2, hr⟩ := h
    unfold Receiver.takeBody
    have htake : (rest ++ [b]).take 2 = rest.take 2 := List.take_append_of_le_length hr2
    by_cases hc : r.buffer.length + 1 < 3 + r.length
    · rw [if_pos hc]
      refine .inl ⟨_, rfl, ?_, by simp⟩
      unfold Receiver.shaped
      simp only [hm]
      rw [hbuf] at hc
      simp at hc
      exact ⟨hl2, hl, rest ++ [b], by rw [hbuf]; rfl, by rw [htake]; exact hread, by simp; omega, by simp; omega⟩
    · rw [if_neg hc]
      refine .inl ⟨_, rfl, ?_, by simp⟩
      rw [hbuf] at hc
      simp at hc
      exact ⟨hl2, hl, rest ++ [b], by rw [hbuf]; rfl, by rw [htake]; exact hread, by simp; omega, by simp; omega⟩
  | check =>
    simp only [hm] at h
    obtain ⟨hl2, hl, rest, hbuf, hread, hr2, hr⟩ := h
    unfold Receiver.takeCheck
    have htake : (rest ++ [b]).take 2 = rest.take 2 := List.take_append_of_le_length (by omega)
    by_cases hc : r.buffer.length + 1 < 5 + r.length
    · rw [if_pos hc]
      refine .inl ⟨_, rfl, ?_, by simp⟩
      unfold Receiver.shaped
      simp only [hm]
      rw [hbuf] at hc
      simp at hc
      exact ⟨hl2, hl, rest ++ [b], by rw [hbuf]; rfl, by rw [htake]; exact hread, by simp; omega, by simp; omega⟩
    · rw [if_neg hc]
      rw [hbuf] at hc
      simp at hc
      by_cases hv : frameValid (r.buffer ++ [b]) = true
      · rw [if_pos hv]
        refine .inr (.inl ⟨_, rfl, ?_, ?_⟩) <;> simp [hbuf] <;> omega
      · rw [if_neg hv]
        exact .inr (.inr ⟨_, rfl, by simp [hbuf]⟩)

/-- R185, R186: taking bytes keeps the receiver's shape, and every body handed over has a legal length. -/
theorem Receiver.takeBytes_shaped (n : Nat) {r : Receiver} (h : r.shaped) (bs : List Byte) :
    (Receiver.takeBytes n r bs).1.shaped
      ∧ ∀ body ∈ (Receiver.takeBytes n r bs).2, 2 ≤ body.length ∧ body.length ≤ 250 := by
  induction n generalizing r bs with
  | zero => exact ⟨h, by intro body hb; cases hb⟩
  | succ n ih =>
    cases bs with
    | nil => exact ⟨h, by intro body hb; cases hb⟩
    | cons b bs =>
      simp only [Receiver.takeBytes]
      rcases Receiver.take_shaped h b with ⟨r', e, hr', -⟩ | ⟨body, e, hb⟩ | ⟨stored, e, -⟩
      · rw [e]; exact ih hr' bs
      · rw [e]
        refine ⟨(ih Receiver.shaped_reset bs).1, ?_⟩
        intro x hx
        rcases List.mem_cons.1 hx with rfl | hx
        · exact hb
        · exact (ih Receiver.shaped_reset bs).2 x hx
      · rw [e]; exact ih Receiver.shaped_reset _

/-- R186: with enough of the bound left, more of it makes no difference. `buffer.length` and the bytes to come shrink
together at each discard. -/
theorem Receiver.takeBytes_stable {n m : Nat} (hnm : n ≤ m) {r : Receiver} (h : r.shaped) (bs : List Byte)
    (hn : (r.buffer.length + bs.length) * (r.buffer.length + bs.length) + bs.length ≤ n) :
    Receiver.takeBytes m r bs = Receiver.takeBytes n r bs := by
  induction n generalizing m r bs with
  | zero =>
    have hb : bs = [] := List.length_eq_zero_iff.1 (by omega)
    subst hb
    cases m <;> rfl
  | succ n ih =>
    cases m with
    | zero => omega
    | succ m =>
      cases bs with
      | nil => rfl
      | cons b bs =>
        simp only [Receiver.takeBytes]
        simp only [List.length_cons] at hn
        rcases Receiver.take_shaped h b with ⟨r', e, hr', hle⟩ | ⟨body, e, hb⟩ | ⟨stored, e, hst⟩
        · rw [e]
          refine ih (by omega) hr' bs ?_
          have h1 : r'.buffer.length + bs.length ≤ r.buffer.length + (bs.length + 1) := by omega
          have h2 := Nat.mul_le_mul h1 h1
          omega
        · rw [e]
          have hd : Receiver.takeBytes m Receiver.reset bs = Receiver.takeBytes n Receiver.reset bs := by
            refine ih (by omega) Receiver.shaped_reset bs ?_
            have h0 : Receiver.reset.buffer.length = 0 := rfl
            rw [h0]
            have h1 : 0 + bs.length ≤ r.buffer.length + (bs.length + 1) := by omega
            have h2 := Nat.mul_le_mul h1 h1
            omega
          simp only [hd]
        · rw [e]
          refine ih (by omega) Receiver.shaped_reset _ ?_
          have h0 : Receiver.reset.buffer.length = 0 := rfl
          rw [h0, List.length_append, hst]
          generalize hk : r.buffer.length + bs.length = k at *
          have h3 : r.buffer.length + (bs.length + 1) = k + 1 := by omega
          rw [h3] at hn
          have h4 : (k + 1) * (k + 1) = k * k + 2 * k + 1 := by ring
          have h5 : 0 + k = k := by omega
          rw [h5]
          omega

end Sys2Proof.Machine
end

