-- ==== Sys2Proof/Laws/Operands.lean ====
section
/-! SUPPORT. The range checks: what an accepted request's fields satisfy, and what the index of a refused one says. -/

namespace Sys2Proof.Machine

theorem firstFailing_none (l : List (Nat × Bool)) : firstFailing l = none ↔ ∀ x ∈ l, x.2 = false := by
  induction l with
  | nil => simp [firstFailing]
  | cons x l ih =>
    obtain ⟨n, b⟩ := x
    cases b <;> simp [firstFailing, ih]

/-- R9, R191: the index answered is that of a failing check before which every check passes. -/
theorem firstFailing_some (l : List (Nat × Bool)) (n : Nat) :
    firstFailing l = some n ↔ ∃ as bs, l = as ++ (n, true) :: bs ∧ ∀ x ∈ as, x.2 = false := by
  induction l with
  | nil => simp [firstFailing]
  | cons x l ih =>
    obtain ⟨m, b⟩ := x
    cases b
    · simp only [firstFailing, Bool.false_eq_true, if_false, ih]
      constructor
      · rintro ⟨as, bs, rfl, h⟩
        exact ⟨(m, false) :: as, bs, rfl, by simpa using h⟩
      · rintro ⟨as, bs, e, h⟩
        cases as with
        | nil => simp at e
        | cons a as =>
          simp only [List.cons_append, List.cons.injEq] at e
          exact ⟨as, bs, e.2, fun x hx => h x (by simp [hx])⟩
    · simp only [firstFailing, if_true, Option.some.injEq]
      constructor
      · rintro rfl
        exact ⟨[], l, rfl, by simp⟩
      · rintro ⟨as, bs, e, h⟩
        cases as with
        | nil => simp only [List.nil_append, List.cons.injEq, Prod.mk.injEq, and_true] at e; exact e.1
        | cons a as =>
          simp only [List.cons_append, List.cons.injEq] at e
          have := h a (by simp)
          rw [← e.1] at this
          cases this

theorem fieldZeroFailing_none (p : List Byte) (max : Nat) : fieldZeroFailing p max = none ↔ fieldAt p 0 1 ≤ max := by
  unfold fieldZeroFailing
  split <;> simp <;> omega

/-- R154: an accepted list names channels of the table, none twice. -/
theorem rosterListFailing_none {index : Nat} {seen l : List Nat} (h : rosterListFailing index seen l = none) :
    (∀ c ∈ l, c ≤ 127 ∧ c ∉ seen) ∧ l.Nodup := by
  induction l generalizing index seen with
  | nil => simp
  | cons c l ih =>
    unfold rosterListFailing at h
    split at h
    · cases h
    · rename_i hc
      obtain ⟨h1, h2⟩ := ih h
      push Not at hc
      refine ⟨?_, ?_⟩
      · intro x hx
        rcases List.mem_cons.1 hx with rfl | hx
        · exact ⟨hc.1, hc.2⟩
        · exact ⟨(h1 x hx).1, fun hs => (h1 x hx).2 (List.mem_cons_of_mem _ hs)⟩
      · rw [List.nodup_cons]
        exact ⟨fun hcl => (h1 c hcl).2 List.mem_cons_self, h2⟩

/-- R157: the fields of an accepted ROSTER_START. -/
theorem StartFields.failing_none {f : StartFields} (h : f.failing = none) :
    f.roster ≤ 3 ∧ f.stream ≤ 1 ∧ 1 ≤ f.period ∧ f.period ≤ 255 := by
  unfold StartFields.failing at h
  rw [firstFailing_none] at h
  simp only [List.mem_cons, List.not_mem_nil, or_false, forall_eq_or_imp, forall_eq, decide_eq_false_iff_not] at h
  omega

/-- R98: the fields of an accepted CHANNEL_BIND. -/
theorem BindFields.failing_none {f : BindFields} (h : f.failing = none) :
    f.channel ≤ 127 ∧ f.stream ≤ 1 ∧ 1 ≤ f.fragments ∧ f.fragments ≤ 4 ∧ f.signed ≤ 1 ∧ f.capacity ≤ 512
      ∧ f.policy ≤ 1 ∧ f.watermark ≤ f.capacity := by
  unfold BindFields.failing at h
  rw [firstFailing_none] at h
  simp only [List.mem_cons, List.not_mem_nil, or_false, forall_eq_or_imp, forall_eq, decide_eq_false_iff_not] at h
  omega

/-- R102: the fields of an accepted CHANNEL_SET. -/
theorem SetFields.failing_none {f : SetFields} {bound : Option Channel} (h : f.failing bound = none) :
    f.channel ≤ 127 ∧ 1 ≤ f.settleCount ∧ f.settleCount ≤ 15 ∧ f.enabled ≤ 1 ∧ f.noticeSet ≤ 63
      ∧ (f.enabled = 1 → ∀ ch, bound = some ch → limitsFit ch.config.signed f.settings = true) := by
  unfold SetFields.failing at h
  rw [firstFailing_none] at h
  simp only [List.mem_cons, List.not_mem_nil, or_false, forall_eq_or_imp, forall_eq, decide_eq_false_iff_not] at h
  obtain ⟨h0, h1, h3, h6, h8⟩ := h
  refine ⟨by omega, by omega, by omega, by omega, by omega, ?_⟩
  intro he ch hc
  subst hc
  simpa [he] using h6

/-- R106: the fields of an accepted CHANNEL_CLEAR. -/
theorem ClearFields.failing_none {f : ClearFields} (h : f.failing = none) :
    f.channel ≤ 127 ∧ 1 ≤ f.parts ∧ f.parts ≤ 7 ∧ (f.namesLatches = true → f.latches ≤ 127) := by
  unfold ClearFields.failing at h
  rw [firstFailing_none] at h
  simp only [List.mem_cons, List.not_mem_nil, or_false, forall_eq_or_imp, forall_eq, decide_eq_false_iff_not] at h
  obtain ⟨h0, h1, h2⟩ := h
  refine ⟨by omega, by omega, by omega, ?_⟩
  intro hn
  rw [hn] at h2
  simp at h2
  exact h2

/-- R145: the fields of an accepted QUEUE_DRAIN. -/
theorem DrainFields.failing_none {f : DrainFields} (h : f.failing = none) :
    f.channel ≤ 127 ∧ 1 ≤ f.max ∧ f.max ≤ 12 := by
  unfold DrainFields.failing at h
  rw [firstFailing_none] at h
  simp only [List.mem_cons, List.not_mem_nil, or_false, forall_eq_or_imp, forall_eq, decide_eq_false_iff_not] at h
  have : Config.drainLimit = 12 := rfl
  omega

/-- R34 check 1: the fields of a STREAM_ARM that passes it. -/
theorem ArmFields.failing_none {f : ArmFields} (h : f.failing = none) :
    f.stream ≤ 1 ∧ 1 ≤ f.set ∧ f.set ≤ 15 ∧ 1 ≤ f.idle ∧ f.idle ≤ 1000 := by
  unfold ArmFields.failing at h
  rw [firstFailing_none] at h
  simp only [List.mem_cons, List.not_mem_nil, or_false, forall_eq_or_imp, forall_eq, decide_eq_false_iff_not] at h
  omega

/-- R73: the fields of a MAP_ADD that passes its range check. -/
theorem AddFields.failing_none {f : AddFields} (h : f.failing = none) :
    f.stream ≤ 1 ∧ f.profile ≤ 3 ∧ 1 ≤ f.position ∧ f.position ≤ 1024 ∧ f.first ≤ 256 ∧ f.step ≤ 256 ∧ f.channel ≤ 127
      ∧ f.fragment ≤ 3 ∧ f.offset ≤ 15 ∧ 1 ≤ f.width ∧ f.width ≤ 16 := by
  unfold AddFields.failing at h
  rw [firstFailing_none] at h
  simp only [List.mem_cons, List.not_mem_nil, or_false, forall_eq_or_imp, forall_eq, decide_eq_false_iff_not] at h
  omega

/-- R74: the fields of a MAP_REMOVE that passes its range check. -/
theorem RemoveFields.failing_none {f : RemoveFields} (h : f.failing = none) :
    f.stream ≤ 1 ∧ f.channel ≤ 127 ∧ f.profile ≤ 3 ∧ (f.fragment ≤ 3 ∨ f.fragment = 255) := by
  unfold RemoveFields.failing at h
  rw [firstFailing_none] at h
  simp only [List.mem_cons, List.not_mem_nil, or_false, forall_eq_or_imp, forall_eq, decide_eq_false_iff_not] at h
  omega

/-- R9, R10: the contents an accepted PROFILE_LOAD stores are legal. The link bounds every field of two bytes. -/
theorem LoadFields.failing_none {f : LoadFields} (h : f.failing = none) : f.slot ≤ 3 ∧ f.profile.Legal := by
  unfold LoadFields.failing at h
  rw [firstFailing_none] at h
  simp only [List.mem_cons, List.not_mem_nil, or_false, forall_eq_or_imp, forall_eq, decide_eq_false_iff_not] at h
  obtain ⟨h0, h1, h2, h3, h4, h5, h6, h7, h8, h9, h10, h11, h12, h13, h14, h15, h16, h17⟩ := h
  refine ⟨by omega, ?_⟩
  have hsw : f.profile.syncWords = f.syncWords := rfl
  have hdata : f.profile.dataBits = if f.parity = 0 then f.wordLength else f.wordLength - 1 := by
    unfold Profile.dataBits LoadFields.profile
    by_cases ha : f.parity = 0
    · simp [ha]
    · by_cases hb : f.parity = 1 <;> simp [ha, hb]
  have hparity : f.profile.parity = .noParity ↔ f.parity = 0 := by
    unfold LoadFields.profile
    by_cases ha : f.parity = 0
    · simp [ha]
    · by_cases hb : f.parity = 1 <;> simp [ha, hb]
  have hcheck : f.profile.check = .crc16 ↔ f.check ≠ 0 := by
    unfold LoadFields.profile
    by_cases ha : f.check = 0 <;> simp [ha]
  refine
    { wordLength := by change 4 ≤ f.wordLength ∧ f.wordLength ≤ 16; omega
      syncLength := by
        change 8 ≤ f.syncLength ∧ f.syncLength ≤ 64 ∧ f.syncLength % f.wordLength = 0
        omega
      pattern := ?_
      frameWords := by
        rw [hsw]
        change f.syncWords + 1 ≤ f.frameWords ∧ f.frameWords ≤ 1024
        omega
      majorLength := by change 1 ≤ f.majorLength ∧ f.majorLength ≤ 256; omega
      oneMinor := ?_
      idWord := ?_
      idBase := by change f.idBase ≤ 1; omega
      checked := ?_
      tolerances := by
        change f.hunt ≤ f.relaxed ∧ f.relaxed ≤ 7 ∧ f.lock ≤ 7
        omega
      verifyFrames := by change 1 ≤ f.verify ∧ f.verify ≤ 15; omega
      coastFrames := by change f.coast ≤ 15; omega }
  · change (BitVec.ofNat 64 f.pattern).toNat < 2 ^ f.syncLength
    rw [BitVec.toNat_ofNat]
    exact lt_of_le_of_lt (Nat.mod_le _ _) (by omega)
  · intro hM
    have hM' : f.majorLength = 1 := hM
    simp [LoadFields.profile, hM']
  · intro hM
    have hM' : 1 < f.majorLength := hM
    have hne : f.majorLength ≠ 1 := by omega
    refine ⟨f.idPosition, f.idWidth, by simp [LoadFields.profile, hne], by simp [LoadFields.profile, hne], ?_⟩
    rw [hsw, hdata]
    change f.syncWords + 1 ≤ f.idPosition ∧ f.idPosition ≤ f.frameWords ∧ 1 ≤ f.idWidth ∧ f.idWidth ≤ _
      ∧ f.idBase + f.majorLength ≤ 2 ^ f.idWidth
    have hpow : 1 ≤ 2 ^ f.idWidth := Nat.one_le_two_pow
    by_cases hp : f.parity = 0
    · rw [if_pos hp]; omega
    · rw [if_neg hp]; omega
  · intro hc
    rw [hcheck] at hc
    rw [hparity, hsw]
    have hone : f.check = 1 := by omega
    change f.wordLength = 16 ∧ f.parity = 0 ∧ f.syncWords + 2 ≤ f.frameWords ∧ _ ≠ some f.frameWords
    refine ⟨by omega, by omega, by omega, ?_⟩
    unfold LoadFields.profile
    by_cases hM : f.majorLength = 1
    · simp [hM]
    · simp only [hM, if_false, ne_eq, Option.some.injEq]
      omega

end Sys2Proof.Machine
end

