-- ==== Sys2Proof/Laws/Pool.lean ====
section
/-! SUPPORT. The reservations of the Sample Pool (R135): what binding, unbinding and every other change do to their sum. -/

namespace Sys2Proof.Machine

/-- The slots a record reserves. -/
def reservedBy (r : Option Channel) : Nat :=
  match r with
  | some ch => ch.config.capacity
  | none => 0

theorem State.reserved_eq (s : State) : s.reserved = (allChannels.map fun c => reservedBy (s.channel c)).sum := by
  unfold State.reserved reservedBy
  rfl

theorem State.reserved_congr {s t : State} (h : ∀ c, reservedBy (t.channel c) = reservedBy (s.channel c)) :
    t.reserved = s.reserved := by
  simp only [State.reserved_eq, h]

theorem sum_replaced {l : List ChannelId} (hl : l.Nodup) {c : ChannelId} (hc : c ∈ l) {f g : ChannelId → Nat}
    (hne : ∀ d ∈ l, d ≠ c → g d = f d) : (l.map g).sum + f c = (l.map f).sum + g c := by
  induction l with
  | nil => cases hc
  | cons d l ih =>
    rw [List.nodup_cons] at hl
    simp only [List.map_cons, List.sum_cons]
    by_cases hd : d = c
    · subst hd
      have : l.map g = l.map f := by
        refine List.map_congr_left fun x hx => hne x (by simp [hx]) ?_
        rintro rfl
        exact hl.1 hx
      rw [this]
      omega
    · have hcl : c ∈ l := by
        rcases List.mem_cons.1 hc with e | e
        · exact absurd e.symm hd
        · exact e
      have h1 := ih hl.2 hcl fun x hx hxc => hne x (by simp [hx]) hxc
      have h2 := hne d (by simp) hd
      omega

/-- R135: replacing one record moves the sum by what the record reserves. -/
theorem State.reserved_setChannel (s : State) (c : ChannelId) (r : Option Channel) :
    (s.setChannel c r).reserved + reservedBy (s.channel c) = s.reserved + reservedBy r := by
  rw [State.reserved_eq, State.reserved_eq]
  have h := sum_replaced (l := allChannels) (List.nodup_finRange 128) (List.mem_finRange c)
    (f := fun d => reservedBy (s.channel d)) (g := fun d => reservedBy ((s.setChannel c r).channel d))
    (fun d _ hd => by simp only [State.channel_setChannel, if_neg hd])
  simpa [State.channel_setChannel] using h

/-- A record put back with the same shape keeps the channel table legal. -/
theorem State.ChannelsLegal.setSame {s : State} (h : s.ChannelsLegal) {c : ChannelId} {ch ch' : Channel}
    (hc : s.channel c = some ch) (hl : ch'.Legal) (hcfg : ch'.config = ch.config) :
    (s.setChannel c (some ch')).ChannelsLegal where
  records := fun d x hx => by
    rw [State.channel_setChannel] at hx
    split at hx
    · cases hx; exact hl
    · exact h.records d x hx
  pool := by
    have hr := s.reserved_setChannel c (some ch')
    have hp := h.pool
    simp only [hc, reservedBy, hcfg] at hr
    simp only [State.setChannel_poolFree]
    omega

/-- The channel table of a state with the same records and the same free count. -/
theorem State.ChannelsLegal.congr {s t : State} (h : s.ChannelsLegal) (hc : t.channels = s.channels)
    (hp : t.poolFree = s.poolFree) : t.ChannelsLegal where
  records := fun c ch hch => h.records c ch ((State.channel_congr hc c).symm.trans hch)
  pool := by
    have hr : t.reserved = s.reserved := State.reserved_congr fun c => congrArg reservedBy (State.channel_congr hc c)
    have hp' := h.pool
    omega

/-- Every bound record passed through a function that keeps its shape and its legality. -/
theorem State.ChannelsLegal.mapChannels {s : State} (h : s.ChannelsLegal) {f : ChannelId → Channel → Channel}
    (hf : ∀ c ch, ch.Legal → (f c ch).Legal) (hcfg : ∀ c ch, (f c ch).config = ch.config) :
    (s.mapChannels f).ChannelsLegal where
  records := fun c ch hch => by
    rw [State.channel_mapChannels, Option.map_eq_some_iff] at hch
    obtain ⟨x, hx, rfl⟩ := hch
    exact hf c x (h.records c x hx)
  pool := by
    have : (s.mapChannels f).reserved = s.reserved := State.reserved_congr fun c => by
      rw [State.channel_mapChannels]
      cases s.channel c with
      | none => rfl
      | some ch => simp [reservedBy, hcfg]
    rw [this, State.mapChannels_poolFree]
    exact h.pool

end Sys2Proof.Machine
end

