-- ==== Sys2Proof/WellFormed.lean ====
section
/-! DEFINITION. Which commands name something the part has. -/

namespace Sys2Proof

/-- A command is well formed when the channel it names is one of the 128 records (R94) and a run of frame bytes
holds between one byte and the 255 of the receiver's buffer (section 10.2). -/
def Instr.wellFormed : Instr → Bool
  | .staleTimerExpiry c => decide (c < 128)
  | .frameReceived bytes => decide (1 ≤ bytes.length ∧ bytes.length ≤ 255)
  | .powerOnReset _ | .bitArrival _ _ | .idleExpiry _ | .windowExpiry _ | .gapTimerExpiry
  | .sendReady | .sendReply | .noticeSend | .frameSent | .ping | .timeGet | .resetFull | .resetStreams
  | .resetChannels | .profileLoad | .profileDrop | .profileRead | .streamArm | .streamDisarm | .streamStatus
  | .mapAdd | .mapRemove | .mapCommit | .mapDiscard | .mapList | .channelBind | .channelUnbind | .channelSet
  | .channelRead | .channelClearLatches | .channelClearValue | .channelClearQueue | .queueDrain | .rosterSet
  | .rosterRead | .rosterStart | .rosterStop | .noticeMask | .noticeGrant | .badKind | .byteArrival _
  | .timebaseTick => true

end Sys2Proof
end

