-- ==== Sys2Proof/Tests/Slice0.lean ====
section
/-! SUPPORT. Tests of single steps on small states, their expected results from the spec's worked examples and tables, the
smoke tests of WellFormed, and for each statement with premises a state and operands that meet them. -/

/- Each test is elaborated before the next: tests that wait for the kernel side by side each hold a thread's stack, and together
they exceed the memory the check allows. -/
set_option Elab.async false

namespace Sys2Proof.Tests

open Sys2Proof Sys2Proof.Machine

/-! ### Well-formed commands -/

theorem test_wellFormed_channel : Instr.wellFormed (.staleTimerExpiry 127) = true
    ∧ Instr.wellFormed (.staleTimerExpiry 128) = false := by decide

theorem test_wellFormed_frame : Instr.wellFormed (.frameReceived [⟨0xD5, true⟩]) = true
    ∧ Instr.wellFormed (.frameReceived []) = false
    ∧ Instr.wellFormed (.frameReceived (List.replicate 255 ⟨0, true⟩)) = true
    ∧ Instr.wellFormed (.frameReceived (List.replicate 256 ⟨0, true⟩)) = false := by decide +kernel

/-- The table gives no row bits. -/
theorem test_no_row_has_bits : decodeTableWord 8 0 = none ∧ State.reset.withFetchWord 8 0 = State.reset := ⟨rfl, rfl⟩

/-! ### Checks (section 10.1, R6) -/

/-- Section 10.1: the nine digits leave 0x29B1. -/
theorem test_link_check_digits : linkCheck [0x31, 0x32, 0x33, 0x34, 0x35, 0x36, 0x37, 0x38, 0x39] = 0x29B1 := by
  decide +kernel

/-- Section 10.1: a PING with tag 5. -/
theorem test_ping_frame : linkFrame [0x01, 0x05] = [0xD5, 0x00, 0x02, 0x01, 0x05, 0x89, 0x34] := by decide +kernel

/-- R6, Check values: the register after a covered word. -/
def covered (word : BitVec 16) : BitVec 16 :=
  (List.range 16).foldl (fun reg n => crcBit 0x8005 reg (word.getLsbD (15 - n))) 0

theorem test_frame_check : covered 0x0000 = 0x0000 ∧ covered 0x0001 = 0x8005 ∧ covered 0x8000 = 0x8009
    ∧ crcBit 0x8005 0 true = 0x8005 := by decide +kernel

/-! ### Small states -/

/-- The power-on state with one request at the head of the inbound queue. -/
def asked (q : Request) : State := { State.reset with inbound := [q] }

theorem asked_fresh (q : Request) : (asked q).fresh q [] := ⟨⟨rfl, Nat.zero_lt_succ 3⟩, rfl⟩

/-- What a command leaves, `s` itself if it stops. -/
def after (c : Instr) (s : State) : State :=
  match exec c s with
  | .next t => t
  | _ => s

/-- The replies a request with tag 1 gets from a state. -/
def repliesTo (c : Instr) (kind : Byte) (payload : List Byte) (s : State) : List (List Byte) :=
  (after c { s with inbound := [⟨kind, 1, payload⟩] }).replies

/-- Section 11.1, slot 0. -/
def format0 : Profile where
  wordLength := 8
  syncLength := 16
  syncPattern := 0xC5B2
  frameWords := 8
  majorLength := 4
  idPosition := some 3
  idWidth := some 2
  idBase := 0
  idDirection := .up
  parity := .noParity
  check := .noCheck
  huntErrors := 0
  relaxedErrors := 1
  lockErrors := 1
  verifyFrames := 2
  coastFrames := 1
  acceptInverted := false

/-- Section 11.2, slot 2, with the id_base asked for. -/
def load2 (idBase : Nat) : LoadFields where
  slot := 2
  wordLength := 16
  syncLength := 32
  pattern := 0xFE6B2840
  frameWords := 32
  majorLength := 8
  idPosition := 3
  idWidth := 3
  idBase := idBase
  idDirection := 1
  parity := 0
  check := 1
  hunt := 1
  relaxed := 3
  lock := 3
  verify := 1
  coast := 1
  inverted := 0

/-- Slot 0 LOADED with `format0` and stream 0 with the records given. -/
def withStream (y : Syn) (t : Tracker) : State :=
  { State.reset with
    timebase := 50000
    profiles := State.reset.profiles.set 0 (some format0)
    syn := ⟨y, .reset⟩
    trk := ⟨t, .reset⟩ }

/-- A synchronizer of stream 0 that follows slot 0 in a mode. -/
def following (mode : SyncMode) (left : Nat) (history : BitVec 64) : Syn :=
  { Syn.reset with
    mode := mode, armed := 1, selected := some 0, bitsToSync := left, history := history, fill := 64, idleTimeout := 10,
    idleTimer := some 0, bitsFlowing := true }

/-- A tracker of stream 0 that holds the major position. -/
def extracting : Tracker :=
  { Tracker.reset with
    major := .majorLocked, profile := some 0, previousId := some 1, frameId := some 2, extracting := true, wordPos := 3,
    majorCount := 17 }

/-- Channel 20 of section 11.2, bound to stream 1 with its settings. -/
def channel20 : Channel :=
  { Channel.fresh ⟨.s1, 2, true, 16, .keepNewest, 8⟩ with
    width := 12
    settings := ⟨2, 4, true, BitVec.ofInt 32 (-500), 1500, 20, 100, 0b001110⟩ }

/-- The power-on state with one bound channel. -/
def withChannel (c : ChannelId) (ch : Channel) : State :=
  { State.reset with timebase := 50000, channels := State.reset.channels.set c.val (some ch), poolFree := 2048 - ch.config.capacity }

/-- A good sample of a value. -/
def sample (v : BitVec 32) : Sample := ⟨0, v, .clear, 3, 0, 1000⟩

/-! ### The link (10) -/

/-- R197, section 10.9: the straps of section 11.1 select 921600 bit/s. -/
theorem test_power_on : (after (.powerOnReset ⟨true, false⟩) State.reset).linkRate = .r921600
    ∧ (after (.powerOnReset ⟨true, false⟩) State.reset).ready = some .powerOn := by decide +kernel

/-- Section 11.1: READY with cause POWER_ON, no tag, part code 0x2120, revision 0x01. -/
theorem test_send_ready :
    (after .sendReady State.reset).tx = some (linkFrame [0x7F, 0, 0, 0, 0x21, 0x20, 0x01]) := by decide +kernel

/-- Section 11.1: PING with tag 1 is answered 0x81, tag 1, OK, capacities. -/
theorem test_ping : (after .ping (asked ⟨0x01, 1, []⟩)).replies
    = [[0x81, 1, 0x00, 0x21, 0x20, 0x01, 2, 4, 0x02, 0x00, 64, 128, 0x08, 0x00, 4, 32]] := by decide +kernel

/-- R198: the Timebase wraps. -/
theorem test_timebase_wraps :
    (after .timebaseTick { State.reset with timebase := BitVec.allOnes 48 }).timebase = 0 := by decide +kernel

theorem test_time_get : repliesTo .timeGet 0x02 [] { State.reset with timebase := 1006100 }
    = [[0x82, 1, 0x00, 0, 0, 0, 0x0F, 0x5A, 0x14]] := by decide +kernel

/-- Section 10.1: the PING frame arrives whole. -/
theorem test_frame_received :
    (after (.frameReceived ([0xD5, 0x00, 0x02, 0x01, 0x05, 0x89, 0x34].map fun b => ⟨b, true⟩)) State.reset).inbound
      = [⟨0x01, 0x05, []⟩] := by decide +kernel

/-- R186: after a length byte of 0xD5 that made a length out of range, that byte starts the next frame. -/
theorem test_bytes_taken_again :
    (after (.frameReceived ([0xD5, 0xD5, 0x00, 0x02, 0x01, 0x05, 0x89, 0x34].map fun b => ⟨b, true⟩)) State.reset).inbound
      = [⟨0x01, 0x05, []⟩] := by decide +kernel

/-- R187: a low stop bit discards the partial frame. -/
theorem test_byte_low_stop :
    (after (.byteArrival ⟨0x02, false⟩) { State.reset with rx := ⟨.length, [0xD5, 0x00], 0, some 0⟩ }).rx = ⟨.seek, [], 0, none⟩ := by
  decide +kernel

/-- R187: the gap timer expires at 10 ms, not before. -/
theorem test_gap_timer :
    (after .gapTimerExpiry { State.reset with timebase := 10000, rx := ⟨.length, [0xD5], 0, some 0⟩ }).rx.mode = .seek
    ∧ (after .gapTimerExpiry { State.reset with timebase := 9999, rx := ⟨.length, [0xD5], 0, some 0⟩ }).rx.mode = .length := by
  decide +kernel

/-- R195: a reply waits for the READY, and leaves the queue as its sending begins. -/
theorem test_send_reply :
    (after .sendReply { State.reset with replies := [[0x81, 1, 0]] }).replies = [[0x81, 1, 0]]
    ∧ (after .sendReply { State.reset with ready := none, replies := [[0x81, 1, 0]] }).tx = some (linkFrame [0x81, 1, 0]) := by
  decide +kernel

theorem test_frame_sent : (after .frameSent { State.reset with tx := some [0xD5] }).tx = none := by decide +kernel

/-- R192: kind 0x55 is answered with reply kind 0xC0 and BAD_KIND. -/
theorem test_bad_kind : repliesTo .badKind 0x55 [] State.reset = [[0xC0, 1, 0x10, 0x55]] := by decide +kernel

/-- Section 11.1: a resent NOTICE_GRANT with tag 3 is not executed again. -/
theorem test_duplicate_grant :
    (after .noticeGrant (after .noticeGrant
      { State.reset with inbound := [⟨0x39, 3, [4]⟩, ⟨0x39, 3, [4]⟩] })).notices.credits = 4
    ∧ (after .noticeGrant (after .noticeGrant
      { State.reset with inbound := [⟨0x39, 3, [4]⟩, ⟨0x39, 3, [4]⟩] })).replies
        = [[0xB9, 3, 0, 4, 0, 0, 0], [0xB9, 3, 0, 4, 0, 0, 0]] := by decide +kernel

/-! ### Profiles (01) -/

/-- Section 11.2: slot 2 with id_base 1 fails field 8; with id_base 0 it is LOADED. -/
theorem test_profile_load : repliesTo .profileLoad 0x08 (load2 1).bytes State.reset = [[0x88, 1, 0x12, 8]]
    ∧ repliesTo .profileLoad 0x08 (load2 0).bytes State.reset = [[0x88, 1, 0x00]] := by decide +kernel

/-- R10's example: N = 2 fails field 4, b = 3 field 8, and b = 4 field 11. -/
theorem test_load_checks :
    (let f (n b : Nat) : LoadFields :=
        { load2 1 with wordLength := 12, syncLength := 24, pattern := 0, frameWords := n, idWidth := b, parity := 1 };
      (f 2 3).failing = some 4 ∧ (f 128 3).failing = some 8 ∧ (f 128 4).failing = some 11) := by decide +kernel

/-- R13: a drop of an EMPTY slot is OK, of an armed one IN_USE. -/
theorem test_profile_drop : repliesTo .profileDrop 0x09 [0] State.reset = [[0x89, 1, 0x00]]
    ∧ repliesTo .profileDrop 0x09 [0] (withStream (following .hunt 0 0) .reset) = [[0x89, 1, 0x14]] := by decide +kernel

/-- R14: an EMPTY slot reads 0 throughout. -/
theorem test_profile_read : repliesTo .profileRead 0x0A [3] State.reset = [[0x8A, 1, 0x00] ++ List.replicate 29 0] := by
  decide +kernel

/-- R5's example: M = 4, id_base 1, DOWN. -/
theorem test_successor : (let p : Profile := { format0 with idBase := 1, idDirection := .down }
    [4, 3, 2, 1].map p.succId = [3, 2, 1, 4] ∧ p.lastMinorId = 1) := by decide +kernel

/-! ### Streams (02) -/

/-- Section 11.1: STREAM_ARM of stream 0, set of slot 0, window 0, idle 10 ms, raises ARMED. -/
theorem test_stream_arm :
    (let s := after .streamArm { withStream .reset .reset with
        inbound := [⟨0x10, 5, [0, 1, 0, 0, 0, 10]⟩], notices := ⟨[], 1, 4, 0, 0⟩ };
      s.replies = [[0x90, 5, 0x00]] ∧ s.syn.s0.mode = .hunt
        ∧ s.notices.queue = [⟨.syncState .s0 ⟨.hunt, .strict, .noMajor, none, .normal, .armed⟩, 0⟩]) := by decide +kernel

/-- R34: a slot that is EMPTY gives NO_SUCH even where the stream's state would refuse the request. -/
theorem test_stream_arm_no_such :
    repliesTo .streamArm 0x10 [0, 2, 0, 0, 0, 10] (withStream (following .locked 5 0) .reset) = [[0x90, 1, 0x13]] := by
  decide +kernel

/-- R36: STREAM_DISARM reports the state before and keeps the armed set. -/
theorem test_stream_disarm :
    (let s := after .streamDisarm { withStream (following .locked 5 0) extracting with inbound := [⟨0x11, 1, [0]⟩] };
      s.replies = [[0x91, 1, 0x00, 3]] ∧ s.syn.s0.mode = .off ∧ s.syn.s0.armed = 1 ∧ s.trk.s0.major = .noMajor
        ∧ s.trk.s0.majorCount = 17) := by decide +kernel

/-- Section 10.8: STREAM_STATUS of a stream that is OFF starts with its state, phase and armed set. -/
theorem test_stream_status :
    (repliesTo .streamStatus 0x12 [1] State.reset).map (List.take 8) = [[0x92, 1, 0x00, 0, 0, 0, 0xFF, 0]] := by
  decide +kernel

/-- R20: the bit that completes slot 0's pattern in HUNT selects it. -/
theorem test_bit_selects :
    (let s := after (.bitArrival .s0 false) (withStream { following .hunt 0 (0xC5B2 >>> 1) with selected := none } .reset);
      s.syn.s0.mode = .verify ∧ s.syn.s0.selected = some 0 ∧ s.syn.s0.bitsToSync = 64 ∧ s.syn.s0.frameTime = some 50000) := by
  decide +kernel

/-- R24, R8: with coast_frames 1 the first miss coasts. -/
theorem test_bit_misses :
    (let s := after (.bitArrival .s0 true) (withStream (following .locked 1 0) extracting);
      s.syn.s0.mode = .coast ∧ s.syn.s0.missCount = 1 ∧ s.trk.s0.flags.coasted = true) := by decide +kernel

/-- R32: an idle expiry in LOCKED loses lock. -/
theorem test_idle_expiry :
    (let s := after (.idleExpiry .s0) (withStream (following .locked 5 0) extracting);
      s.syn.s0.mode = .hunt ∧ s.syn.s0.bitsFlowing = false ∧ s.trk.s0.extracting = false
        ∧ s.syn.s0.lastReason = some .idle) := by decide +kernel

/-- Section 11.3: the window expiry at 20 ms relaxes the phase; a second one stops the acquisition. -/
theorem test_window_expiry :
    (let y : Syn := { following .hunt 0 0 with selected := none, window := 20, windowTimer := some 0 };
      (after (.windowExpiry .s0) (withStream y .reset)).syn.s0.phase = .relaxed
        ∧ (after (.windowExpiry .s0) (withStream { y with phase := .relaxed } .reset)).syn.s0.mode = .stopped) := by
  decide +kernel

/-! ### Frames (03) -/

/-- R50's example: the IDs 2, 7, 3, 0 with M = 4, id_base 0, UP gain the position at the fourth. -/
theorem test_id_search :
    (let p : Profile := { format0 with idWidth := some 3 };
      let t (prev : Option Nat) : Tracker := { Tracker.reset with major := .majorSearch, previousId := prev };
      ((t none).idSearch p 2).1.previousId = some 2 ∧ ((t (some 2)).idSearch p 7).1.previousId = none
        ∧ ((t none).idSearch p 3).1.major = .majorSearch ∧ ((t (some 3)).idSearch p 0).1.major = .majorLocked) := by
  decide +kernel

/-- R56's example: offset 3 and width 5 of 101 10011 0100 with odd parity give 19. -/
theorem test_fragment :
    (Profile.fragment { format0 with wordLength := 12, parity := .odd } 0b101100110100
      ⟨.s0, 0, 4, 0, 1, 2, 0, 3, 5⟩).value = 19 := by decide +kernel

/-- Chapter 3, One minor frame: word 6 = 0x3C completes channels 2 and 5. -/
theorem test_word_joins :
    (let m : List MapEntry := [⟨.s0, 0, 6, 0, 1, 2, 0, 4, 4⟩, ⟨.s0, 0, 4, 0, 1, 5, 0, 0, 8⟩, ⟨.s0, 0, 6, 0, 1, 5, 1, 0, 4⟩];
      let t : Tracker := { extracting with wordPos := 6, word := 0x3C, assembly := [⟨5, 1, 0xA7, false⟩] };
      let bound (n : Nat) : Option Channel := some (Channel.fresh ⟨.s0, n, false, 0, .keepOldest, 0⟩);
      let s : State := { withStream (following .locked 40 0) t with
        map := m, channels := (State.reset.channels.set 2 (bound 1)).set 5 (bound 2) };
      (s.mapLookup .s0 0 format0).trk.s0.staging = [⟨2, 0xC, false⟩, ⟨5, 0xA73, false⟩]) := by decide +kernel

/-- Chapter 3, One minor frame: the frame's last bit is still to come, 3: 0xA7 and 2: 0xC are staged, the ID is not the last. -/
def ending : State :=
  let bound : Option Channel := some (Channel.fresh ⟨.s0, 1, false, 4, .keepOldest, 0⟩)
  { withStream (following .locked 17 0)
      { extracting with wordPos := 8, wordBits := 7, staging := [⟨3, 0xA7, false⟩, ⟨2, 0xC, false⟩] } with
    channels := (State.reset.channels.set 2 bound).set 3 bound }

/-- R60, R62: the last bit releases both samples; a CHANNELS reset after it (R115) finds them released and leaves NO_DATA. -/
theorem test_frame_end :
    (let s := after (.bitArrival .s0 true) ending;
      let r := after .resetChannels { s with inbound := [⟨0x03, 1, [2]⟩] };
      s.trk.s0.staging = [] ∧ s.trk.s0.extracting = false ∧ s.syn.s0.framesProcessed = 1
        ∧ [2, 3].map (fun c => (s.channel c).map fun ch => ch.queue.records.map Sample.value) = [some [0xC], some [0xA7]]
        ∧ [2, 3].map (fun c => (r.channel c).map Channel.data) = [some .noData, some .noData]) := by decide +kernel

/-- The part with a drain of channel 3, a PING and a drain of channel 2 waiting. -/
def draining : State := { ending with inbound := [⟨0x28, 1, [3, 12]⟩, ⟨0x01, 2, []⟩, ⟨0x28, 3, [2, 12]⟩] }

/-- R147: where all three requests are taken between the two releases, the drain of channel 3 takes this frame's sample of 20
bytes, the PING behind it is answered, and the drain of channel 2 finds nothing yet; where none is, all wait. -/
theorem test_requests_between_releases :
    let replies : List (List Byte) :=
      (State.releaseAll .s0 ending.trk.s0 draining ending.trk.s0.staging).replies
    ((∀ n, Config.requestsFall n = 3) →
        replies.map (fun r => (r.take 2, r.length)) = [([0xA8, 1], 27), ([0x81, 2], 16), ([0xA8, 3], 7)])
      ∧ ((∀ n, Config.requestsFall n = 0) → replies = []) := by
  have e : ∀ k, (∀ n, Config.requestsFall n = k) → State.requestsBetween = fun u i =>
      if u.requestWaits i then (State.takeTurn i)^[min k u.inbound.length] { u.sendInside with draws := u.sendInside.draws + 1 }
      else u := by
    intro k h
    funext u i
    simp only [State.requestsBetween, h]
  constructor <;> intro h
  · show (State.requestsBetween (State.release (State.requestsBetween _ _) _ 2 _) _).replies.map _ = _
    rw [e _ h]
    decide +kernel
  · show (State.requestsBetween (State.release (State.requestsBetween _ _) _ 2 _) _).replies = _
    rw [e _ h]
    decide +kernel

/-- The part with a PROFILE_DROP of slot 0, which the locked stream arms, and a PROFILE_LOAD of slot 2 waiting. -/
def loading : State := { ending with inbound := [⟨0x09, 1, [0]⟩, ⟨0x08, 2, (load2 0).bytes⟩] }

/-- `loading` once the frame's last bit is in its word. -/
def lastBit : State :=
  (loading.setSyn .s0 { loading.syn.s0.record true loading.timebase with bitsToSync := 16 }).setTrk .s0
    (loading.trk.s0.takeBit format0 true)

/-- R11, R147: where both requests are taken between the releases of the frame's last bit, slot 0 is in use and stays, and slot 2,
which is not, is loaded. -/
theorem test_profiles_inside_a_bit (h : ∀ n, Config.requestsFall n = 2) :
    (after (.bitArrival .s0 true) loading).replies = [[0x89, 1, 0x14], [0x88, 2, 0x00]]
      ∧ loading.profiles.toList = [some format0, none, none, none]
      ∧ (after (.bitArrival .s0 true) loading).profiles.toList = [some format0, none, some (load2 0).profile, none] := by
  have e : State.requestsBetween = fun u i =>
      if u.requestWaits i then (State.takeTurn i)^[min 2 u.inbound.length] { u.sendInside with draws := u.sendInside.draws + 1 }
      else u := by
    funext u i
    simp only [State.requestsBetween, h]
  have b : after (.bitArrival .s0 true) loading = State.requestsBetween (State.release (State.requestsBetween (State.release
      ((lastBit.setTrk .s0 lastBit.trk.s0.endFrame).setSyn .s0 (lastBit.syn.s0.countFrame false false))
      .s0 3 (lastBit.trk.s0.sampleOf ⟨3, 0xA7, false⟩)) .s0) .s0 2 (lastBit.trk.s0.sampleOf ⟨2, 0xC, false⟩)) .s0 := rfl
  rw [b, e]
  decide +kernel

/-- R15: inside a bit of stream 0 a request at its own synchronizer and a STREAMS reset wait; one at stream 1, a CHANNELS reset and
a STREAM_STATUS of no stream do not. -/
theorem test_requests_inside_a_bit :
    (let waits (kind : Byte) (payload : List Byte) := (asked ⟨kind, 1, payload⟩).requestWaits .s0;
      waits 0x11 [0] = false ∧ waits 0x03 [1] = false ∧ waits 0x11 [1] = true ∧ waits 0x03 [2] = true
        ∧ waits 0x12 [2] = true) := by decide +kernel

/-! ### The map (04) -/

/-- Section 11.2: the first edit of stream 1 is edit 0, 1 staged. -/
theorem test_map_add : repliesTo .mapAdd 0x18 [1, 1, 0, 10, 0, 0, 0, 1, 20, 0, 4, 4] State.reset = [[0x98, 1, 0x00, 0, 1]] := by
  decide +kernel

/-- R74: the fragment ALL is in range, 4 is not. -/
theorem test_map_remove : repliesTo .mapRemove 0x19 [1, 20, 1, 0xFF] State.reset = [[0x99, 1, 0x00, 0, 1]]
    ∧ repliesTo .mapRemove 0x19 [1, 20, 1, 4] State.reset = [[0x99, 1, 0x12, 3]] := by decide +kernel

/-- The map of section 11.2 staged on stream 1, with slot 2 and channel 20, or without slot 2's second fragment. -/
def staged (edits : List MapEntry) : State :=
  { withChannel 20 { channel20 with width := 0 } with
    profiles := State.reset.profiles.set 2 (some (load2 0).profile)
    stage := ⟨.reset, ⟨edits.map Edit.add, false, 0⟩⟩ }

def entries20 : List MapEntry := [⟨.s1, 2, 5, 1, 2, 20, 0, 0, 6⟩, ⟨.s1, 2, 6, 1, 2, 20, 1, 10, 6⟩]

/-- R75, R82, R86: applied at once on a stream that is OFF, the width the sum of the fragments'. -/
theorem test_map_commit :
    (let s := after .mapCommit { staged entries20 with inbound := [⟨0x1A, 15, [1]⟩] };
      s.replies = [[0x9A, 15, 0x00, 2, 0, 2]] ∧ s.map = entries20 ∧ (s.channel 20).map Channel.width = some 12) := by
  decide +kernel

/-- R80, R193: a missing fragment fails INCOMPLETE with the last edit and the channel. -/
theorem test_map_commit_incomplete : repliesTo .mapCommit 0x1A [1] (staged (entries20.take 1))
    = [[0x9A, 1, 0x18, 0, 9, 20, 0xFF, 0xFF, 0xFF]] := by decide +kernel

/-- Section 11.4: a discard of a pending commit reports 1 discarded, cancelled yes. -/
theorem test_map_discard :
    repliesTo .mapDiscard 0x1B [1] { State.reset with stage := ⟨.reset, ⟨[.removeAll 20 2], true, -1⟩⟩ }
      = [[0x9B, 1, 0x00, 1, 1]] := by decide +kernel

theorem test_map_list : repliesTo .mapList 0x1C [0, 1] { State.reset with map := entries20 }
    = [[0x9C, 1, 0x00, 0, 2, 0, 0, 0, 0, 1, 1, 1, 2, 0, 6, 0, 1, 0, 2, 20, 1, 10, 6]] := by decide +kernel

/-! ### Channels, settling and limits (05, 06) -/

/-- Section 11.2: CHANNEL_BIND of channel 20 with q 16 leaves 2032. -/
theorem test_channel_bind : repliesTo .channelBind 0x20 [20, 1, 2, 1, 0, 16, 1, 0, 8] State.reset
    = [[0xA0, 1, 0x00, 0x07, 0xF0]] := by decide +kernel

/-- R136's example: with 24 free, q = 25 is refused with NO_ROOM, carrying 24. -/
theorem test_channel_bind_no_room : repliesTo .channelBind 0x20 [3, 0, 1, 0, 0, 25, 0, 0, 0] { State.reset with poolFree := 24 }
    = [[0xA0, 1, 0x15, 0, 24]] := by decide +kernel

/-- R100: an UNBOUND channel is answered OK; one that an ADD names is IN_USE. -/
theorem test_channel_unbind : repliesTo .channelUnbind 0x21 [20] State.reset = [[0xA1, 1, 0x00, 0, 0, 0, 0x08, 0x00]]
    ∧ repliesTo .channelUnbind 0x21 [20] (staged entries20) = [[0xA1, 1, 0x14, 0, 0, 2]] := by decide +kernel

/-- Section 11.2: CHANNEL_SET of channel 20 passes the enabling check, limit state NORMAL. -/
theorem test_channel_set : repliesTo .channelSet 0x22
    [20, 2, 0, 4, 1, 0xFF, 0xFF, 0xFE, 0x0C, 0, 0, 0x05, 0xDC, 0, 0, 0, 20, 0, 100, 0b001110] (withChannel 20 channel20)
      = [[0xA2, 1, 0x00, 0]] := by decide +kernel

/-- R105: an UNBOUND channel reads UNBOUND. -/
theorem test_channel_read : repliesTo .channelRead 0x23 [127] State.reset
    = [[0xA3, 1, 0x00] ++ List.replicate 29 0 ++ [3, 0xFF] ++ List.replicate 50 0] := by decide +kernel

/-- R106: LATCHES clears what the set names and the reply shows the rest. -/
theorem test_channel_clear_latches : repliesTo .channelClearLatches 0x24 [20, 1, 0b0000001]
    (withChannel 20 { channel20 with latches := 0b0100001 }) = [[0xA4, 1, 0x00, 0, 0, 0b0100000]] := by decide +kernel

/-- R107: VALUE returns the limit state to NORMAL and keeps HIGH_SEEN. -/
theorem test_channel_clear_value :
    ((after .channelClearValue { withChannel 20 { channel20 with
        data := .current (sample 5), settled := some ⟨1602, 12⟩, limit := .high, latches := 0b0100001 } with
      inbound := [⟨0x24, 1, [20, 2, 0]⟩] }).channel 20).map (fun ch => (ch.data, ch.settled, ch.limit, ch.latches))
      = some (.noData, none, .normal, 0b0100001) := by decide +kernel

theorem test_channel_clear_queue : repliesTo .channelClearQueue 0x24 [20, 4, 0]
    (withChannel 20 { channel20 with queue := ⟨[sample 1, sample 2], 3, false⟩ }) = [[0xA4, 1, 0x00, 0, 2, 0]] := by
  decide +kernel

/-- R111: the stale timer of 100 ms. -/
theorem test_stale_timer :
    (let ch : Channel := { channel20 with data := .current (sample 5), staleTimer := some 0 };
      ((after (.staleTimerExpiry 20) { withChannel 20 ch with timebase := 100000 }).channel 20).map Channel.data
          = some (.stale .timeout (sample 5))
        ∧ ((after (.staleTimerExpiry 20) { withChannel 20 ch with timebase := 99999 }).channel 20).map Channel.data
          = some (.current (sample 5))) := by decide +kernel

theorem test_stale_timer_no_channel : exec (.staleTimerExpiry 128) State.reset = .fault (.noSuchChannel 128) := rfl

/-- Section 11.6: from candidate 1000, agree 2, the values 1003, 1006, 1600, 1602 after a bad sample. -/
theorem test_settling :
    (let start : Channel := { channel20 with candidate := some 1000, agree := 2, settled := some ⟨1000, 12⟩ };
      let bad : Sample := { sample 1090 with flags := { Quality.clear with coasted := true } };
      let next (ch : Channel) (v : BitVec 32) : Channel := (ch.settle 20 (sample v)).1;
      let a := next (start.settle 20 bad).1 1003;
      let b := next a 1006;
      let d := next (next b 1600) 1602;
      (a.agree, a.settled) = (1, some ⟨1000, 12⟩) ∧ (b.agree, b.settled) = (2, some ⟨1006, 12⟩)
        ∧ (d.settled, d.limit, d.latches) = (some ⟨1602, 12⟩, .high, 0b0100000)) := by decide +kernel

/-- R126's example: low 100, high 200, h 10, values 195, 205, 195, 190, 90. -/
theorem test_limits :
    (let m := limitMove 100 200 10;
      (m 195 .normal, m 205 .normal, m 195 .high, m 190 .high, m 90 .normal) = (.normal, .high, .high, .normal, .low)) := by
  decide +kernel

/-- R120's examples: 0xFE and 0x01 at width 8, signed and unsigned. -/
theorem test_values_read : readValue true 8 0xFE = -2 ∧ readValue true 8 0x01 = 1 ∧ readValue false 8 0xFE = 254
    ∧ readValue true 32 0x80000000 = -2147483648 := by decide +kernel

/-! ### Queues, rosters and notices (07 to 09) -/

/-- R140: KEEP_NEWEST loses the head and counts it. -/
theorem test_queue_overflow :
    (let ch : Channel := { channel20 with
        config := ⟨.s1, 2, true, 2, .keepNewest, 0⟩, queue := ⟨[sample 1, sample 2], 0, true⟩ };
      ((ch.push 20 (sample 3)).1.queue, (ch.push 20 (sample 3)).1.latches)
        = (⟨[sample 2, sample 3], 1, true⟩, 0b1000000)) := by decide +kernel

/-- R146: one record removed, fill 1 after, dropped 3 before. -/
theorem test_queue_drain : (repliesTo .queueDrain 0x28 [20, 1]
    (withChannel 20 { channel20 with queue := ⟨[sample 1, sample 2], 3, false⟩ })).map (List.take 15)
      = [[0xA8, 1, 0x00, 0, 1, 0, 3, 0, 0, 0, 0, 0, 0, 0, 1]] := by decide +kernel

/-- R154: the later appearance of a channel is reported. -/
theorem test_roster_set : repliesTo .rosterSet 0x30 [1, 7, 9, 7] State.reset = [[0xB0, 1, 0x12, 3]]
    ∧ repliesTo .rosterSet 0x30 [1, 7, 9] State.reset = [[0xB0, 1, 0x00, 2]] := by decide +kernel

/-- R152: an UNBOUND channel's entry. -/
theorem test_roster_read :
    repliesTo .rosterRead 0x31 [0] { State.reset with rosters := State.reset.rosters.set 0 ⟨[5], .idle, .s0, 1, 0⟩ }
      = [[0xB1, 1, 0x00, 0, 0, 0, 1, 0, 1, 5, 0xC0] ++ List.replicate 11 0] := by decide +kernel

/-- R157, R159: a roster started with K = 1 fires at the next boundary of its stream. -/
theorem test_roster_start :
    (let s := after .rosterStart { State.reset with inbound := [⟨0x32, 1, [2, 1, 1]⟩] };
      s.roster 2 = ⟨[], .periodic, .s1, 1, 1⟩ ∧ (s.roster 2).fires .s1 = true ∧ (s.roster 2).fires .s0 = false) := by
  decide +kernel

theorem test_roster_stop :
    repliesTo .rosterStop 0x33 [2] { State.reset with rosters := State.reset.rosters.set 2 ⟨[5], .periodic, .s1, 9, 4⟩ }
      = [[0xB3, 1, 0x00, 1]] := by decide +kernel

/-- Section 11.1: NOTICE_MASK 0x0001. -/
theorem test_notice_mask : repliesTo .noticeMask 0x38 [0x00, 0x01] State.reset = [[0xB8, 1, 0x00, 0, 0, 0, 0]] := by
  decide +kernel

/-- R177: a grant beyond 255 leaves 255. -/
theorem test_notice_grant : repliesTo .noticeGrant 0x39 [10] { State.reset with notices := ⟨[], 0, 255, 0, 0⟩ }
    = [[0xB9, 1, 0x00, 255, 0, 0, 0]] := by decide +kernel

/-- Section 11.6: the first of two sends carries sequence 37 and coalesced count 1. -/
theorem test_notice_send :
    (let n : Notice := ⟨.syncState .s1 ⟨.locked, .relaxed, .majorLocked, some 2, .normal, .recovered⟩, 1⟩;
      let s := after .noticeSend { State.reset with ready := none, notices := ⟨[n], 1, 2, 0, 37⟩ };
      s.notices = ⟨[], 1, 1, 0, 38⟩ ∧ s.tx = some (linkFrame [0x40, 0, 37, 0, 0, 1, 1, 3, 1, 2, 2, 0, 4])) := by
  decide +kernel

/-- R199: a scope of 3 is refused. -/
theorem test_reset_scope : repliesTo .resetStreams 0x03 [3] State.reset = [[0x83, 1, 0x12, 0]]
    ∧ repliesTo .resetChannels 0x03 [2] State.reset = [[0x83, 1, 0x00, 2]] := by decide +kernel

theorem test_reset_full :
    (let s := after .resetFull { State.reset with timebase := 7, ready := none, inbound := [⟨0x03, 9, [0]⟩] };
      s.ready = some (.request 9) ∧ s.replies = [] ∧ s.timebase = 0) := by decide +kernel

/-! ### States that meet the premises of the statements -/

/-- A state with one request at the head of the inbound queue. -/
def askedIn (s : State) (q : Request) : State := { s with inbound := [q], replies := [], cache := [] }

theorem askedIn_fresh (s : State) (q : Request) : (askedIn s q).fresh q [] := ⟨⟨rfl, Nat.zero_lt_succ 3⟩, rfl⟩

/-- A state in which a tick is the next command. -/
def ticking (s : State) : State := { s with pending := [.timebaseTick] }

theorem ticking_step (s : State) : step (ticking s) = .next { s with timebase := s.timebase + 1, pending := [] } := rfl

theorem test_premises_step : State.reset.pending = [] := rfl

/-- The boundary numbers of the timers a STALE_TIMER_EXPIRY may name. -/
theorem test_premises_complete : (∀ n, Instr.staleTimerExpiry 127 = .staleTimerExpiry n → n < 128) ∧ 128 ≤ 128
    ∧ ∀ n, Instr.ping = .staleTimerExpiry n → n < 128 :=
  ⟨fun n h => by cases h; decide, Nat.le_refl _, fun n h => by cases h⟩

theorem test_premises_fullReset : (asked ⟨0x03, 9, [0]⟩).fresh ⟨0x03, 9, [0]⟩ []
    ∧ (2 < (3 : Byte).toNat ∧ (asked ⟨0x03, 9, [3]⟩).fresh ⟨0x03, 9, [3]⟩ [])
    ∧ ([] : List Byte).length ≠ 1 ∧ (asked ⟨0x03, 9, []⟩).fresh ⟨0x03, 9, []⟩ [] :=
  ⟨asked_fresh _, ⟨by decide, asked_fresh _⟩, by decide, asked_fresh _⟩

/-- Stream 0 holds lock, channel 7 of it is CURRENT. -/
def lockedWithChannel : State :=
  { withStream (following .locked 5 0) extracting with
    channels := State.reset.channels.set 7 (some
      { Channel.fresh ⟨.s0, 1, false, 0, .keepOldest, 0⟩ with data := .current (sample 5), nextSeq := 1, width := 8 }) }

/-- The part with a STREAMS reset waiting, SYNC_STATE enabled and a credit. -/
def resetting : State := { askedIn lockedWithChannel ⟨0x03, 9, [1]⟩ with ready := none, notices := ⟨[], 1, 1, 0, 0⟩ }

/-- R183: the SYNC_STATE of the reset goes before the reset's reply where the transmitter begins it there, and waits with no frame
in progress where it does not. -/
theorem test_reset_notice_side :
    ((∀ n, Config.beginsNotice n = true) →
      (after .resetStreams resetting).replies = [[0x83, 9, 0x00, 1]] ∧ (after .resetStreams resetting).notices.queue = []
        ∧ (after .resetStreams resetting).tx = some (linkFrame [0x40, 0, 0, 0, 0, 0, 0, 0, 0, 0, 0xFF, 0, 11]))
    ∧ ((∀ n, Config.beginsNotice n = false) →
      (after .resetStreams resetting).tx = none ∧ (after .resetStreams resetting).notices.queue.length = 1) := by
  let u : State := (({ resetting with inbound := [] } : State).resetStream .s0).resetStream .s1
  have hr : resetting.fresh ⟨0x03, 9, [1]⟩ [] := ⟨⟨rfl, Nat.zero_lt_succ 3⟩, rfl⟩
  have e : after .resetStreams resetting = u.sendInside.answer ⟨0x03, 9, [1]⟩ (.ok (byte 1)) := by
    show resetting.takeRequest (takesReset 1) actResetStreams = _
    rw [State.takeRequest_fresh hr (by decide), actResetStreams, show resetRefusal ⟨0x03, 9, [1]⟩ = none by decide]
    rfl
  have n : u.nextFrame = some .notice := by decide +kernel
  constructor <;> intro h <;> rw [e, State.sendInside, if_pos n, h] <;> decide +kernel

/-- A free line, a credit and 32 pending notices; a raise of channel 40 finds no place. -/
def crowded : State :=
  { State.reset with
    ready := none
    notices := ⟨(List.range 32).map fun c => ⟨.queueLevel (Fin.ofNat 128 c) 1 1 0, 0⟩, 0x20, 1, 0, 0⟩ }

/-- R178, R180: the raise is appended where the head is sent before it, and dropped and counted where it is not. -/
theorem test_send_frees_a_place :
    let s : State := crowded.raiseAll [.queueLevel 40 1 1 0]
    ((∀ n, Config.beginsNotice n = true) → s.notices.queue.length = 32 ∧ s.notices.dropped = 0 ∧ s.notices.credits = 0 ∧ s.tx ≠ none)
      ∧ ((∀ n, Config.beginsNotice n = false) → s.notices.queue.length = 32 ∧ s.notices.dropped = 1 ∧ s.tx = none) := by
  have e : crowded.raiseAll [.queueLevel 40 1 1 0]
      = { crowded.sendInside with notices := crowded.sendInside.notices.take (.queueLevel 40 1 1 0) } := by
    rw [State.raiseAll_cons, State.raiseAll_nil, State.raiseOne, if_pos (by decide +kernel)]
  have n : crowded.nextFrame = some .notice := by decide +kernel
  constructor <;> intro h <;> rw [e, State.sendInside, if_pos n, h] <;> decide +kernel

/-- R180: a raise that merges into a notice behind the head is taken with no choice. -/
theorem test_raise_behind_the_head :
    (crowded.raiseAll [.queueLevel 5 2 1 9]).notices.queue[5]? = some ⟨.queueLevel 5 2 1 9, 1⟩
      ∧ (crowded.raiseAll [.queueLevel 5 2 1 9]).tx = none := by decide +kernel

theorem test_premises_resets : (askedIn lockedWithChannel ⟨0x03, 9, [1]⟩).fresh ⟨0x03, 9, [1]⟩ []
    ∧ (lockedWithChannel.channel 7).isSome = true ∧ lockedWithChannel.channel 8 = none
    ∧ (askedIn lockedWithChannel ⟨0x03, 9, [2]⟩).fresh ⟨0x03, 9, [2]⟩ [] :=
  ⟨askedIn_fresh _ _, by decide +kernel, by decide +kernel, askedIn_fresh _ _⟩

theorem test_premises_pingAndTime : (asked ⟨0x02, 1, []⟩).fresh ⟨0x02, 1, []⟩ [] ∧ (asked ⟨0x01, 1, []⟩).fresh ⟨0x01, 1, []⟩ []
    ∧ Instr.isRequest .ping = true ∧ Instr.ping ≠ .resetFull
    ∧ exec .ping (asked ⟨0x01, 1, []⟩) = .next (after .ping (asked ⟨0x01, 1, []⟩)) :=
  ⟨asked_fresh _, asked_fresh _, by decide, by decide, rfl⟩

theorem legal_length (rest : List Byte) (h : rest.length ≤ 1) (t : Time) :
    Receiver.legal ⟨.length, startByte :: rest, 0, some t⟩ := ⟨⟨rfl, rest, rfl, h⟩, by simp⟩

theorem legal_body (rest : List Byte) (n : Nat) (t : Time) (h : 2 ≤ n ∧ n ≤ 250) (hn : readBE (rest.take 2) = n)
    (hl : 2 ≤ rest.length ∧ rest.length < 2 + n) : Receiver.legal ⟨.body, startByte :: rest, n, some t⟩ :=
  ⟨⟨h.1, h.2, rest, rfl, hn, hl.1, hl.2⟩, by simp⟩

theorem legal_check (rest : List Byte) (n : Nat) (t : Time) (h : 2 ≤ n ∧ n ≤ 250) (hn : readBE (rest.take 2) = n)
    (hl : 2 + n ≤ rest.length ∧ rest.length < 4 + n) : Receiver.legal ⟨.check, startByte :: rest, n, some t⟩ :=
  ⟨⟨h.1, h.2, rest, rfl, hn, hl.1, hl.2⟩, by simp⟩

/-- SEEK; the two length bytes of the lengths 2 and 250; the first and the last body byte; the two check bytes of PING. -/
theorem test_premises_receiver : State.reset.rx.legal ∧ State.reset.rx.mode = .seek
    ∧ Receiver.legal ⟨.length, [0xD5], 0, some 0⟩ ∧ Receiver.legal ⟨.length, [0xD5, 0], 0, some 0⟩
    ∧ (2 ≤ (0 : Byte).toNat * 256 + (2 : Byte).toNat ∧ (0 : Byte).toNat * 256 + (250 : Byte).toNat ≤ 250)
    ∧ Receiver.legal ⟨.body, [0xD5, 0, 2], 2, some 0⟩ ∧ [0xD5, 0, 2].length = 3 + 0
    ∧ Receiver.legal ⟨.body, [0xD5, 0, 2, 1], 2, some 0⟩ ∧ [0xD5, 0, 2, 1].length = 3 + 1
    ∧ Receiver.legal ⟨.check, [0xD5, 0, 2, 1, 5], 2, some 0⟩ ∧ [0xD5, 0, 2, 1, 5].length = 3 + 2
    ∧ Receiver.legal ⟨.check, [0xD5, 0, 2, 1, 5, 0x89], 2, some 0⟩
    ∧ (linkCheck [0, 2, 1, 5]).toNat = (0x89 : Byte).toNat * 256 + (0x34 : Byte).toNat :=
  ⟨⟨⟨rfl, rfl⟩, by decide⟩, rfl, legal_length _ (by decide) _, legal_length _ (by decide) _, by decide,
    legal_body _ _ _ (by decide) (by decide) (by decide), rfl, legal_body _ _ _ (by decide) (by decide) (by decide), rfl,
    legal_check _ _ _ (by decide) (by decide) (by decide), rfl, legal_check _ _ _ (by decide) (by decide) (by decide),
    by decide +kernel⟩

theorem test_premises_frames : State.reset.rx.legal ∧ State.reset.rx.mode = .seek ∧ (List.replicate 248 (0 : Byte)).length ≤ 248 :=
  ⟨⟨⟨rfl, rfl⟩, by decide⟩, rfl, le_of_eq List.length_replicate⟩

/-- A length of 1 and of 251; a check that is wrong in its last bit. -/
theorem test_premises_badFrames : Receiver.legal ⟨.length, [0xD5, 0], 0, some 0⟩
    ∧ ¬ (2 ≤ (0 : Byte).toNat * 256 + (1 : Byte).toNat ∧ (0 : Byte).toNat * 256 + (1 : Byte).toNat ≤ 250)
    ∧ ¬ (2 ≤ (0 : Byte).toNat * 256 + (251 : Byte).toNat ∧ (0 : Byte).toNat * 256 + (251 : Byte).toNat ≤ 250)
    ∧ Receiver.legal ⟨.check, [0xD5, 0, 2, 1, 5, 0x89], 2, some 0⟩ ∧ [0xD5, 0, 2, 1, 5, 0x89].length = 4 + 2
    ∧ readBE (([0xD5, 0, 2, 1, 5, 0x89] ++ [0x35]).drop (3 + 2))
      ≠ (linkCheck (([0xD5, 0, 2, 1, 5, 0x89].drop 1).take (2 + 2))).toNat :=
  ⟨legal_length _ (by decide) _, by decide, by decide, legal_check _ _ _ (by decide) (by decide) (by decide), rfl,
    by decide +kernel⟩

theorem test_premises_executorWaits : State.reset.inbound = []
    ∧ 4 ≤ ({ State.reset with replies := List.replicate 4 [0x81, 1, 0] } : State).replies.length
    ∧ (asked ⟨0x02, 1, []⟩).inbound = ⟨0x02, 1, []⟩ :: [] ∧ takenBy .ping ⟨0x02, 1, []⟩ = false
    ∧ Instr.isRequest .ping = true := ⟨rfl, by decide, rfl, by decide, by decide⟩

/-- A resent PING with its reply in the cache. -/
def resent : State := { asked ⟨0x01, 1, []⟩ with cache := [⟨1, 0x01, [0x81, 1, 0]⟩] }

theorem test_premises_duplicates : Instr.isRequest .ping = true ∧ takenBy .ping ⟨0x01, 1, []⟩ = true
    ∧ resent.head ⟨0x01, 1, []⟩ [] ∧ (⟨1, 0x01, [0x81, 1, 0]⟩ : CacheEntry) ∈ resent.cache ∧ resent.LinkLegal
    ∧ resent.cache.length ≤ 4 :=
  ⟨by decide, by decide, ⟨rfl, by decide⟩, by simp [resent],
    { receiver := ⟨⟨rfl, rfl⟩, by decide⟩
      inboundSlots := by decide
      payloads := by intro q hq; simp [resent, asked] at hq; simp [hq]
      replySlots := by decide
      cacheSlots := by decide
      cacheTags := List.pairwise_singleton _ _ }, by decide⟩

/-- Kind 0x04 names no request; a PING of one payload byte; a ROSTER_SET of none and of 18. -/
theorem test_premises_linkChecks : (asked ⟨0x04, 1, []⟩).fresh ⟨0x04, 1, []⟩ []
    ∧ (0x04 : Byte).toNat ∉ [0x01, 0x02, 0x03, 0x08, 0x09, 0x0A, 0x10, 0x11, 0x12, 0x18, 0x19, 0x1A, 0x1B, 0x1C, 0x20, 0x21,
      0x22, 0x23, 0x24, 0x28, 0x30, 0x31, 0x32, 0x33, 0x38, 0x39]
    ∧ takenBy .ping ⟨0x01, 1, [0]⟩ = true ∧ (asked ⟨0x01, 1, [0]⟩).fresh ⟨0x01, 1, [0]⟩ []
    ∧ ((0x01 : Byte).toNat = 0x01 ∧ ¬ (0 ≤ [0].length ∧ [0].length ≤ 0))
    ∧ takenBy .rosterSet ⟨0x30, 1, []⟩ = true ∧ ¬ (1 ≤ ([] : List Byte).length ∧ ([] : List Byte).length ≤ 17)
    ∧ ¬ (1 ≤ (List.replicate 18 (0 : Byte)).length ∧ (List.replicate 18 (0 : Byte)).length ≤ 17) :=
  ⟨asked_fresh _, by decide, by decide, asked_fresh _, by decide, by decide, by decide, by decide⟩

theorem test_premises_linkKept : (ticking resent).LinkLegal
    ∧ step (ticking resent) = .next { resent with timebase := resent.timebase + 1, pending := [] } :=
  ⟨{ receiver := ⟨⟨rfl, rfl⟩, by decide⟩
     inboundSlots := by decide
     payloads := by intro q hq; simp [ticking, resent, asked] at hq; simp [hq]
     replySlots := by decide
     cacheSlots := by decide
     cacheTags := List.pairwise_singleton _ _ }, rfl⟩

theorem load2_fits : (load2 0).fits ∧ (load2 1).fits := by constructor <;> simp [LoadFields.fits, load2]

theorem load2_unbroken (n : Nat) : ¬ (load2 0).Breaks n := by
  simp only [LoadFields.Breaks]
  split <;> simp [load2]

/-- Section 11.2: the load with id_base 1 breaks field 8 and none before it; with id_base 0 it breaks none. -/
theorem test_premises_profileLoad : (load2 0).fits ∧ (load2 1).fits
    ∧ (asked ⟨0x08, 1, (load2 1).bytes⟩).fresh ⟨0x08, 1, (load2 1).bytes⟩ []
    ∧ (load2 1).Breaks 8 ∧ (∀ m < 8, ¬ (load2 1).Breaks m)
    ∧ (∀ n, ¬ (load2 0).Breaks n) ∧ (load2 0).slot = (2 : Slot).val :=
  ⟨load2_fits.1, load2_fits.2, asked_fresh _, by simp [LoadFields.Breaks, load2], by
    intro m hm
    interval_cases m <;> simp [LoadFields.Breaks, load2], load2_unbroken, rfl⟩

/-- The first and the last field at fault. -/
theorem test_premises_profileLoad_ends :
    ({ load2 0 with slot := 4 } : LoadFields).fits ∧ ({ load2 0 with slot := 4 } : LoadFields).Breaks 0
    ∧ ({ load2 0 with inverted := 2 } : LoadFields).fits ∧ ({ load2 0 with inverted := 2 } : LoadFields).Breaks 17
    ∧ ∀ m < 17, ¬ ({ load2 0 with inverted := 2 } : LoadFields).Breaks m :=
  ⟨by simp [LoadFields.fits, load2], by simp [LoadFields.Breaks], by simp [LoadFields.fits, load2], by simp [LoadFields.Breaks], by
    intro m hm
    interval_cases m <;> simp [LoadFields.Breaks, load2]⟩

theorem test_premises_profileRequests : (asked ⟨0x09, 1, [4]⟩).fresh ⟨0x09, 1, [4]⟩ [] ∧ 3 < (4 : Byte).toNat
    ∧ (asked ⟨0x0A, 1, [3]⟩).fresh ⟨0x0A, 1, [3]⟩ [] ∧ (3 : Byte).toNat = (3 : Slot).val :=
  ⟨asked_fresh _, by decide, asked_fresh _, rfl⟩

/-- Slot 2 is LOADED and not in use, and a PROFILE_DROP of it waits. -/
def dropping : State :=
  { asked ⟨0x09, 1, [2]⟩ with profiles := State.reset.profiles.set 2 (some (load2 0).profile) }

/-- A load and a drop of slot 2; a bit inside which requests fall as `test_profiles_inside_a_bit` says. -/
theorem test_premises_usedSlots : exec .profileLoad (asked ⟨0x08, 1, (load2 0).bytes⟩)
      = .next (after .profileLoad (asked ⟨0x08, 1, (load2 0).bytes⟩))
    ∧ (after .profileLoad (asked ⟨0x08, 1, (load2 0).bytes⟩)).profile 2 ≠ (asked ⟨0x08, 1, (load2 0).bytes⟩).profile 2
    ∧ exec .profileDrop dropping = .next (after .profileDrop dropping)
    ∧ (after .profileDrop dropping).profile 2 ≠ dropping.profile 2
    ∧ exec (.bitArrival .s0 true) loading = .next (after (.bitArrival .s0 true) loading) :=
  ⟨rfl, by decide +kernel, rfl, by decide +kernel, rfl⟩

theorem test_premises_readsBack : (load2 0).fits ∧ ∀ n, ¬ (load2 0).Breaks n := ⟨load2_fits.1, load2_unbroken⟩

theorem test_premises_successors : 1 ≤ format0.majorLength ∧ format0.idDirection = .up ∧ (load2 0).profile.idDirection = .down
    ∧ format0.idInRange 3 = true ∧ format0.idInRange 4 = false ∧ 3 < format0.majorLength := by decide

/-- The streams 1 and 2 of the stream requests. -/
theorem test_premises_streamRequests : (asked ⟨0x10, 1, [2, 1, 0, 0, 0, 10]⟩).fresh ⟨0x10, 1, [2, 1, 0, 0, 0, 10]⟩ []
    ∧ 1 < (2 : Byte).toNat ∧ (asked ⟨0x10, 1, [1, 1, 0, 0, 0, 10]⟩).fresh ⟨0x10, 1, [1, 1, 0, 0, 0, 10]⟩ []
    ∧ (1 : Byte).toNat = StreamId.index .s1 ∧ be 2 (10 : BitVec 16).toNat = [0, 10]
    ∧ (asked ⟨0x11, 1, [1]⟩).fresh ⟨0x11, 1, [1]⟩ [] ∧ (asked ⟨0x12, 1, [1]⟩).fresh ⟨0x12, 1, [1]⟩ [] :=
  ⟨asked_fresh _, by decide, asked_fresh _, rfl, by decide, asked_fresh _, asked_fresh _⟩

/-- Slot 0 is the only slot that is LOADED. -/
theorem onlyFormat0 {y : Syn} {t : Tracker} {k : Slot} {p : Profile} (h : (withStream y t).profile k = some p) :
    k = 0 ∧ p = format0 := by
  fin_cases k
  · exact ⟨rfl, (Option.some.inj h).symm⟩
  · cases h
  · cases h
  · cases h

/-- A stream in HUNT whose last bit but one is given. -/
def hunting (history : BitVec 64) : Syn := { following .hunt 0 history with selected := none }

theorem test_premises_search : (withStream .reset .reset).syn.s0.mode = .off
    ∧ (withStream { hunting 0 with mode := .stopped } .reset).syn.s0.mode = .stopped
    ∧ (withStream (hunting 0) .reset).syn.s0.mode = .hunt
    ∧ (∀ (k : Slot) (p : Profile) (pol : Polarity), (withStream (hunting 0) .reset).profile k = some p →
      ¬ Syn.hits (hunting 0) p pol)
    ∧ (withStream (hunting 0xC5B2) .reset).profile 0 = some format0 ∧ Syn.hits (hunting 0xC5B2) format0 .normal
    ∧ (hunting 0xC5B2).armed.getLsbD (0 : Slot).val = true ∧ ∀ j : Slot, ¬ j < 0 :=
  ⟨rfl, rfl, rfl, by
    intro k p pol h
    obtain ⟨rfl, rfl⟩ := onlyFormat0 h
    cases pol
    · simp only [Syn.hits]
      decide +kernel
    · simp only [Syn.hits]
      decide +kernel, rfl, by
    simp only [Syn.hits]
    decide +kernel, rfl, by simp⟩

/-- In VERIFY; in LOCKED at the sync pattern's first bit, before it, and at the last bit of a word. -/
theorem test_premises_beforePosition : (following .verify 2 0).mode = .verify ∧ 1 < (following .verify 2 0).bitsToSync
    ∧ (following .locked 16 0).bitsToSync ≤ format0.syncLength ∧ format0.syncLength < (following .locked 17 0).bitsToSync
    ∧ (following .locked 17 0).mode ≠ .verify ∧ (following .locked 17 0).selected = some 0
    ∧ (withStream (following .locked 17 0) extracting).profile 0 = some format0 ∧ extracting.profile = some 0
    ∧ extracting.wordBits + 1 < format0.wordLength
    ∧ format0.wordLength ≤ ({ extracting with wordBits := 7 } : Tracker).wordBits + 1 := by decide +kernel

/-- The bits after which the pattern 0xC5B2 stands with no error, and with 16. -/
theorem test_premises_positions :
    (withStream (following .verify 1 0) .reset).profile 0 = some format0 ∧ (following .verify 1 0).bitsToSync = 1
    ∧ format0.lockErrors < differences format0 ((0x3A4D >>> 1 : BitVec 64) <<< 1 ||| 1)
    ∧ differences format0 ((0xC5B2 >>> 1 : BitVec 64) <<< 1 ||| 0) ≤ format0.lockErrors
    ∧ (following .verify 1 0).verifyCount + 1 < format0.verifyFrames
    ∧ format0.verifyFrames ≤ ({ following .verify 1 0 with verifyCount := 1 } : Syn).verifyCount + 1
    ∧ 1 ≤ format0.coastFrames ∧ (following .coast 1 0).missCount + 1 ≤ format0.coastFrames
    ∧ format0.coastFrames < ({ following .coast 1 0 with missCount := 1 } : Syn).missCount + 1
    ∧ ({ format0 with coastFrames := 0 } : Profile).coastFrames = 0 ∧ (following .locked 1 0).mode = .locked := by
  decide +kernel

/-- Timers due at exactly their length, and one microsecond before it. -/
theorem test_premises_timers : (following .locked 5 0).idleTimer = some 0
    ∧ (following .locked 5 0).idleTimeout * 1000 ≤ ((10000 : Time) - 0).toNat
    ∧ ((9999 : Time) - 0).toNat < (following .locked 5 0).idleTimeout * 1000
    ∧ ({ hunting 0 with window := 20, windowTimer := some 0 } : Syn).windowTimer = some 0
    ∧ ({ hunting 0 with window := 20, windowTimer := some 0 } : Syn).window * 1000 ≤ ((20000 : Time) - 0).toNat
    ∧ ((19999 : Time) - 0).toNat < 20 * 1000 ∧ State.reset.syn.s1.idleTimer = none := by decide


/-! ### The map's and the streams' legal states -/

/-- Slot 2, channel 20 and its two entries under slot 2, as section 11.2 leaves them. -/
def mapped : State :=
  { withChannel 20 channel20 with
    profiles := State.reset.profiles.set 2 (some (load2 0).profile)
    map := entries20 }

theorem mapped_supports {e : MapEntry} (h : e ∈ entries20) : mapped.supports e := by
  simp only [entries20, List.mem_cons, List.not_mem_nil, or_false] at h
  obtain rfl | rfl := h <;> exact ⟨by decide +kernel, by decide +kernel⟩

theorem mapped_legal : mapped.MapLegal where
  entries := fun _ h => mapped_supports h
  keys := by unfold keysDistinct; decide +kernel
  stagedStream := by intro i e h; cases i <;> cases h
  pendingAdds := by intro i e h; cases i <;> cases h
  pendingKeys := by intro i h; cases i <;> cases h
  growth := by intro i h; cases i <;> cases h

theorem test_premises_streamsApart : StreamId.s0 ≠ .s1 ∧ mapped.MapLegal
    ∧ exec (.bitArrival .s0 true) mapped = .next (after (.bitArrival .s0 true) mapped)
    ∧ exec (.idleExpiry .s0) mapped = .next (after (.idleExpiry .s0) mapped)
    ∧ mapped.channel 20 = some channel20 ∧ channel20.config.stream = .s1 :=
  ⟨by decide, mapped_legal, rfl, rfl, by decide +kernel, rfl⟩

theorem test_premises_mapKept : (ticking mapped).MapLegal ∧ ∃ t, step (ticking mapped) = .next t :=
  ⟨{ entries := mapped_legal.entries, keys := mapped_legal.keys, stagedStream := mapped_legal.stagedStream,
     pendingAdds := mapped_legal.pendingAdds, pendingKeys := mapped_legal.pendingKeys, growth := mapped_legal.growth },
    _, ticking_step _⟩

theorem format0_legal : format0.Legal where
  wordLength := by decide
  syncLength := by decide
  pattern := by decide
  frameWords := by decide
  majorLength := by decide
  oneMinor := by decide
  idWord := fun _ => ⟨3, 2, rfl, rfl, by decide, by decide, by decide, by decide, by decide⟩
  idBase := by decide
  checked := by decide
  tolerances := by decide
  verifyFrames := by decide
  coastFrames := by decide

/-- Stream 0 holds lock with slot 0 and hunts for its major position, at the first word of a frame. -/
def seeking : State :=
  withStream { following .locked 64 0 with verifyCount := 2 }
    { Tracker.reset with major := .majorSearch, profile := some 0, wordPos := 3 }

theorem seeking_legal0 : (ticking seeking).StreamLegal .s0 where
  syn := ⟨by decide, by decide, by decide, by decide, by decide, by decide, by decide, by decide, by decide⟩
  trk := ⟨by decide, by decide, by decide, by decide⟩
  armed := by decide +kernel
  following := fun _ => ⟨0, format0, rfl, rfl, ⟨rfl, by decide, by decide, by decide, by decide⟩,
    fun _ => ⟨by decide, rfl, by decide, by decide, by decide, fun _ => by decide, by decide⟩⟩
  noLock := fun h => by cases h
  pending := by decide
  staged := by decide

theorem seeking_legal1 : (ticking seeking).StreamLegal .s1 where
  syn := ⟨by decide, by decide, by decide, by decide, by decide, by decide, by decide, by decide, by decide⟩
  trk := ⟨by decide, by decide, by decide, by decide⟩
  armed := by decide
  following := fun h => by cases h
  noLock := fun _ => ⟨rfl, rfl, rfl, rfl, rfl⟩
  pending := by decide
  staged := by decide

theorem test_premises_streamsKept : (ticking seeking).StreamsLegal ∧ ∃ t, step (ticking seeking) = .next t :=
  ⟨⟨fun _ _ h => (onlyFormat0 (y := { following .locked 64 0 with verifyCount := 2 })
      (t := { Tracker.reset with major := .majorSearch, profile := some 0, wordPos := 3 }) h).2 ▸ format0_legal, fun i => match i with
    | .s0 => seeking_legal0
    | .s1 => seeking_legal1⟩, _, ticking_step _⟩

/-- A tracker of stream 0 at an ID word that reads `read`. -/
def atIdWord (t : Tracker) (read : BitVec 16) : State := withStream (following .locked 40 0) { t with word := read }

/-- The five cases, by the ID read of the two-bit field: it succeeds, it does not, it is the prediction, a first and a second
mismatch. -/
theorem test_premises_idWord : format0.idWidth = some 2 ∧ 1 ≤ format0.wordLength
    ∧ ((atIdWord { Tracker.reset with major := .majorSearch, previousId := some 3 } 0).trk.s0.major = .majorSearch
      ∧ format0.succId 3 = 0)
    ∧ (∃ prev, (some 2 : Option Nat) = some prev ∧ format0.succId prev ≠ 0)
    ∧ ((atIdWord extracting 2).trk.s0.major = .majorLocked ∧ (atIdWord extracting 2).trk.s0.frameId = some (2 % 2 ^ 2))
    ∧ ((atIdWord extracting 1).trk.s0.frameId ≠ some (1 % 2 ^ 2) ∧ (atIdWord extracting 1).trk.s0.mismatch = 0)
    ∧ (atIdWord { extracting with mismatch := 1 } 1).trk.s0.mismatch = 1 :=
  ⟨rfl, by decide, ⟨rfl, rfl⟩, ⟨2, rfl, by decide⟩, ⟨rfl, rfl⟩, ⟨by decide, rfl⟩, rfl⟩

/-- A part in which no request waits, one in which only a request at the stream's own synchronizer does, one in which one may be
taken. -/
theorem test_premises_releases : (¬ ∃ v, ending.TurnTo .s0 v) ∧ (¬ ∃ v, (asked ⟨0x12, 1, [0]⟩).TurnTo .s0 v)
    ∧ draining.TurnTo .s0 draining.takeAny :=
  ⟨fun ⟨_, h⟩ => absurd (State.turnTo_iff.1 h).1 (by decide +kernel),
    fun ⟨_, h⟩ => absurd (State.turnTo_iff.1 h).1 (by decide +kernel),
    State.turnTo_iff.2 ⟨by decide +kernel, rfl⟩⟩

/-- Bits 10 to 15 of a word of 16. -/
theorem test_premises_lookup : (⟨.s1, 2, 6, 1, 2, 20, 1, 10, 6⟩ : MapEntry).offset + 6 ≤ (load2 0).profile.dataBits
    ∧ 1 ≤ (load2 0).profile.wordLength ∧ (load2 0).profile.wordLength ≤ 16 := by decide

def fragments20 : List Fragment := [⟨20, 0, 6, 0x3E, false⟩, ⟨20, 1, 6, 0x2E, true⟩]

theorem test_premises_fragments : fragments20 ≠ [] ∧ (∀ f ∈ fragments20, f.channel = 20)
    ∧ fragments20.map Fragment.index = List.range fragments20.length ∧ (⟨20, 0, 6, 1, false⟩ : Fragment).index = 0
    ∧ 1 < fragments20.length ∧ 0 < (⟨20, 1, 6, 1, false⟩ : Fragment).index
    ∧ ∀ a ∈ ({ extracting with assembly := [⟨20, 2, 0, false⟩] } : Tracker).assembly, a.channel = 20 → a.received ≠ 1 := by
  decide

theorem test_premises_mapRequests :
    (asked ⟨0x18, 1, [1, 3, 4, 0, 1, 0, 1, 0, 127, 3, 15, 16]⟩).fresh ⟨0x18, 1, [1, 3, 4, 0, 1, 0, 1, 0, 127, 3, 15, 16]⟩ []
    ∧ [1, 3] ++ be 2 (1024 : BitVec 16).toNat ++ be 2 (256 : BitVec 16).toNat ++ be 2 (256 : BitVec 16).toNat
      ++ [127, 3, 15, 16] = ([1, 3, 4, 0, 1, 0, 1, 0, 127, 3, 15, 16] : List Byte)
    ∧ (asked ⟨0x19, 1, [2, 20, 1, 0]⟩).fresh ⟨0x19, 1, [2, 20, 1, 0]⟩ [] ∧ 1 < (2 : Byte).toNat
    ∧ (asked ⟨0x1B, 1, [1]⟩).fresh ⟨0x1B, 1, [1]⟩ [] ∧ (1 : Byte).toNat = StreamId.index .s1
    ∧ (asked ⟨0x1C, 1, be 2 511⟩).fresh ⟨0x1C, 1, be 2 511⟩ [] ∧ (asked ⟨0x1A, 1, [1]⟩).fresh ⟨0x1A, 1, [1]⟩ [] :=
  ⟨asked_fresh _, by decide, asked_fresh _, by decide, asked_fresh _, rfl, asked_fresh _, asked_fresh _⟩

/-- No entry of channel 21; the entries of channel 20, of one width under their one profile. -/
theorem test_premises_widths : (∀ e ∈ entries20, e.channel ≠ 21) ∧ (∀ e ∈ entries20, e.channel = 20 ∧ e.profile = 2)
    ∧ ∃ e, e ∈ entries20 := ⟨by decide, by decide, _, List.mem_cons_self⟩

/-- Channel 21 is UNBOUND, slot 3 EMPTY, slot 2 LOADED; the second of two staged edits fails. -/
theorem test_premises_edits : (∀ ch, (staged entries20).channel 21 = some ch → ch.config.stream ≠ .s1)
    ∧ (staged entries20).channel 20 = some { channel20 with width := 0 } ∧ channel20.config.stream = .s1
    ∧ (staged entries20).profile 3 = none ∧ (staged entries20).profile 2 = some (load2 0).profile
    ∧ ((staged (entries20.take 1 ++ entries20.take 1)).stage.get .s1).edits
      = [.add ⟨.s1, 2, 5, 1, 2, 20, 0, 0, 6⟩] ++ .add ⟨.s1, 2, 5, 1, 2, 20, 0, 0, 6⟩ :: []
    ∧ (staged (entries20.take 1 ++ entries20.take 1)).editFails .s1 0 [] (.add ⟨.s1, 2, 5, 1, 2, 20, 0, 0, 6⟩) = none
    ∧ (staged (entries20.take 1 ++ entries20.take 1)).editFails .s1 0 [⟨.s1, 2, 5, 1, 2, 20, 0, 0, 6⟩]
      (.add ⟨.s1, 2, 5, 1, 2, 20, 0, 0, 6⟩) = some .duplicate :=
  ⟨(fun _ h => by cases h), by decide +kernel, rfl, rfl, by decide +kernel, rfl, by decide +kernel, by decide +kernel⟩

/-- Slot 0 LOADED, channel 20 bound with two fragments, and committed entries that stay when the one staged edit, the removal
of an entry of channel 21, has been applied. -/
def judged (entries : List MapEntry) : State :=
  { withChannel 20 channel20 with
    profiles := State.reset.profiles.set 0 (some format0)
    map := ⟨.s1, 2, 5, 1, 2, 21, 0, 0, 6⟩ :: entries
    stage := ⟨.reset, ⟨[.remove 21 2 0], false, 0⟩⟩ }

/-- The one edit passes, and the entries are what is left. -/
theorem judged_edits : ((judged []).stage.get .s1).edits ≠ []
    ∧ (∀ m, (judged m).editFails .s1 0 (applyEdits .s1 (judged m).map []) (.remove 21 2 0) = none)
    ∧ applyEdits .s1 (judged entries20).map [.remove 21 2 0] = entries20 := ⟨by decide, fun _ => rfl, by decide⟩

/-- The entries of channel 20 under a slot. -/
def of20 (entries : List MapEntry) (k : Slot) : List MapEntry := entries.filter fun e => e.channel = 20 ∧ e.profile = k

/-- A missing fragment; positions that do not rise; sums that differ under two profiles; 65 channels at the lowest ID of the
lowest profile, and no channel of them bound. -/
theorem test_premises_validCommits :
    (of20 (entries20.take 1) 2 ≠ [] ∧ (of20 (entries20.take 1) 2).length ≠ 2
      ∧ (judged (entries20.take 1)).validate .s1 = some ⟨0, .incomplete, some 20, none, none⟩)
    ∧ (let crossed : List MapEntry := [⟨.s1, 2, 6, 1, 2, 20, 0, 0, 6⟩, ⟨.s1, 2, 5, 1, 2, 20, 1, 10, 6⟩];
      (∀ k : Slot, of20 crossed k ≠ [] → (of20 crossed k).length = 2 ∧ ∀ n < 2, ∃ e ∈ of20 crossed k, e.fragment = n)
        ∧ (judged crossed).validate .s1 = some ⟨0, .order, some 20, none, none⟩)
    ∧ (let uneven : List MapEntry := entries20 ++ [⟨.s1, 3, 5, 1, 2, 20, 0, 0, 6⟩, ⟨.s1, 3, 6, 1, 2, 20, 1, 10, 5⟩];
      of20 uneven 2 ≠ [] ∧ of20 uneven 3 ≠ []
        ∧ ((of20 uneven 2).map MapEntry.width).sum ≠ ((of20 uneven 3).map MapEntry.width).sum
        ∧ (judged uneven).validate .s1 = some ⟨0, .width, some 20, none, none⟩)
    ∧ (let many : List MapEntry := (allChannels.drop 63).map fun c => ⟨.s1, 0, 4, 0, 1, c, 0, 0, 1⟩;
      let free : State := { judged many with channels := State.reset.channels };
      many.length = 65 ∧ free.profile 0 = some format0 ∧ format0.idBase = 0
        ∧ free.validate .s1 = some ⟨0, .staging, none, some 0, some 0⟩)
    ∧ (staged entries20).validate .s1 = none := by decide +kernel

/-! ### Channels, queues, rosters and notices -/

/-- The channels 128 and 127 of the channel requests. -/
theorem test_premises_channelRequests (kind : Byte) (payload : List Byte) :
    (asked ⟨kind, 1, payload⟩).fresh ⟨kind, 1, payload⟩ [] ∧ 127 < (128 : Byte).toNat
    ∧ (127 : Byte).toNat = (127 : ChannelId).val := ⟨asked_fresh _, by decide, rfl⟩

theorem test_premises_channelBind :
    (asked ⟨0x20, 1, [127, 1, 4, 1, 2, 0, 1, 2, 0]⟩).fresh ⟨0x20, 1, [127, 1, 4, 1, 2, 0, 1, 2, 0]⟩ []
    ∧ [127, 1, 4, 1] ++ be 2 (512 : BitVec 16).toNat ++ [1] ++ be 2 (512 : BitVec 16).toNat
      = ([127, 1, 4, 1, 2, 0, 1, 2, 0] : List Byte)
    ∧ (asked ⟨0x21, 1, [128]⟩).fresh ⟨0x21, 1, [128]⟩ [] ∧ 127 < (128 : Byte).toNat
    ∧ (127 : Byte).toNat = (127 : ChannelId).val := ⟨asked_fresh _, by decide, asked_fresh _, by decide, rfl⟩

/-- Section 11.2's settings for channel 20. -/
theorem test_premises_channelSet :
    (askedIn (withChannel 20 channel20)
        ⟨0x22, 1, [20, 2] ++ be 2 4 ++ [1] ++ be 4 0xFFFFFE0C ++ be 4 1500 ++ be 4 20 ++ be 2 100 ++ [0b001110]⟩).fresh
      ⟨0x22, 1, [20, 2] ++ be 2 4 ++ [1] ++ be 4 0xFFFFFE0C ++ be 4 1500 ++ be 4 20 ++ be 2 100 ++ [0b001110]⟩ []
    ∧ (20 : Byte).toNat = (20 : ChannelId).val ∧ 127 < (128 : Byte).toNat := ⟨askedIn_fresh _ _, rfl, by decide⟩

theorem test_premises_channelRead : (asked ⟨0x23, 1, [128]⟩).fresh ⟨0x23, 1, [128]⟩ [] ∧ 127 < (128 : Byte).toNat
    ∧ (askedIn (withChannel 20 channel20) ⟨0x23, 1, [20]⟩).fresh ⟨0x23, 1, [20]⟩ []
    ∧ (withChannel 20 channel20).channel 21 = none ∧ (withChannel 20 channel20).channel 20 = some channel20 :=
  ⟨asked_fresh _, by decide, askedIn_fresh _ _, by decide +kernel, by decide +kernel⟩

/-- The three parts alone, none of them, and a part that does not exist. -/
theorem test_premises_channelClear : (Instr.channelClearValue, 1)
      ∈ [(Instr.channelClearLatches, 0), (Instr.channelClearValue, 1), (Instr.channelClearQueue, 2)]
    ∧ (askedIn (withChannel 20 channel20) ⟨0x24, 1, [20, 2, 0]⟩).fresh ⟨0x24, 1, [20, 2, 0]⟩ []
    ∧ (1 : Byte).getLsbD 0 = true ∧ (2 : Byte).getLsbD 1 = true ∧ (4 : Byte).getLsbD 2 = true ∧ 7 < (8 : Byte).toNat
    ∧ 127 < (128 : Byte).toNat ∧ (20 : Byte).toNat = (20 : ChannelId).val :=
  ⟨by decide, askedIn_fresh _ _, by decide, by decide, by decide, by decide, by decide, rfl⟩

theorem test_premises_release : (withChannel 20 channel20).channel 20 = some channel20 ∧ channel20.config.stream = .s1 := by
  decide +kernel

/-- A stale timer due at exactly its window, and one microsecond before it. -/
theorem test_premises_stale : ({ channel20 with data := .current (sample 5), staleTimer := some 0 } : Channel).data = .current (sample 5)
    ∧ channel20.settings.staleWindow * 1000 ≤ ((100000 : Time) - 0).toNat
    ∧ ((99999 : Time) - 0).toNat < channel20.settings.staleWindow * 1000
    ∧ (withChannel 20 channel20).channel 21 = none := by decide +kernel

/-- The widths 0, 12 and 32, and limits with a band between them. -/
theorem test_premises_numbers : (0 : BitVec 32).toNat < 2 ^ 0 ∧ (0xF9C : BitVec 32).toNat < 2 ^ 12 ∧ 12 ≤ 32
    ∧ (BitVec.allOnes 32).toNat < 2 ^ 32 ∧ (0 : Int) ≤ 10 ∧ (100 : Int) + 10 ≤ 150 ∧ (150 : Int) ≤ 200 - 10 := by decide

/-- No queue; one place left; a full queue under each policy. -/
theorem test_premises_push :
    (Channel.fresh ⟨.s0, 1, false, 0, .keepOldest, 0⟩).config.capacity = 0
    ∧ ({ channel20 with queue := ⟨List.replicate 15 (sample 1), 0, false⟩ } : Channel).queue.records.length < channel20.config.capacity
    ∧ channel20.config.capacity ≤ (List.replicate 16 (sample 1)).length ∧ 0 < channel20.config.capacity
    ∧ channel20.config.policy = .keepNewest
    ∧ (Channel.fresh ⟨.s0, 1, false, 16, .keepOldest, 0⟩).config.policy = .keepOldest
    ∧ List.replicate 16 (sample 1) = sample 1 :: List.replicate 15 (sample 1) := by decide +kernel

theorem test_premises_drain : (askedIn (withChannel 20 channel20) ⟨0x28, 1, [20, 12]⟩).fresh ⟨0x28, 1, [20, 12]⟩ []
    ∧ (20 : Byte).toNat = (20 : ChannelId).val ∧ 127 < (128 : Byte).toNat := ⟨askedIn_fresh _ _, rfl, by decide⟩

theorem channel20_legal : channel20.Legal where
  fragments := by decide
  capacity := by decide
  watermark := by decide
  settleCount := by decide
  deadband := by decide
  staleWindow := by decide
  limits := by decide
  agree := by decide
  noCandidate := by decide
  noSettled := by decide
  noLimits := by decide
  sequence := by intro r h; cases h
  timer := by decide
  fill := by decide
  dropped := by decide
  armed := by decide

theorem only20 {c : ChannelId} {ch : Channel} (h : (withChannel 20 channel20).channel c = some ch) : ch = channel20 := by
  by_cases hc : c = 20
  · subst hc
    exact (Option.some.inj h).symm
  · have hn : (20 : ChannelId).val ≠ c.val := fun e => hc (Fin.ext e.symm)
    simp only [State.channel, withChannel, State.reset, Vector.getElem_set_ne _ _ hn, Vector.getElem_replicate] at h
    cases h

theorem test_premises_channelsKept : (ticking (withChannel 20 channel20)).ChannelsLegal
    ∧ ∃ t, step (ticking (withChannel 20 channel20)) = .next t :=
  ⟨⟨fun _ _ h => (only20 h) ▸ channel20_legal, by decide +kernel⟩, _, ticking_step _⟩

/-- Roster 4 and roster 3; a list whose third channel repeats the first; a list of 16. -/
theorem test_premises_rosterSet : (asked ⟨0x30, 1, 4 :: [7, 9, 7]⟩).fresh ⟨0x30, 1, 4 :: [7, 9, 7]⟩ [] ∧ 3 < (4 : Byte).toNat
    ∧ (3 : Byte).toNat = (3 : RosterId).val ∧ ([7, 9, 7] : List Byte) = [7, 9] ++ 7 :: [] ∧ ([7, 9] : List Byte).Nodup
    ∧ (∀ b ∈ ([7, 9] : List Byte), b.toNat ≤ 127) ∧ (7 : Byte) ∈ ([7, 9] : List Byte) ∧ 127 < (128 : Byte).toNat
    ∧ ((List.finRange 128).take 16).Nodup ∧ ((List.finRange 128).take 16).length ≤ 16 :=
  ⟨asked_fresh _, by decide, rfl, rfl, by decide, by decide, by decide, by decide, by decide +kernel, by decide +kernel⟩

theorem test_premises_rosterRequests : (asked ⟨0x31, 1, [4]⟩).fresh ⟨0x31, 1, [4]⟩ [] ∧ 3 < (4 : Byte).toNat
    ∧ (3 : Byte).toNat = (3 : RosterId).val ∧ (asked ⟨0x32, 1, [3, 1, 255]⟩).fresh ⟨0x32, 1, [3, 1, 255]⟩ []
    ∧ (asked ⟨0x33, 1, [3]⟩).fresh ⟨0x33, 1, [3]⟩ [] :=
  ⟨asked_fresh _, by decide, rfl, asked_fresh _, asked_fresh _⟩

/-- Roster 2 PERIODIC with one boundary to go. -/
def periodic : State := { State.reset with rosters := State.reset.rosters.set 2 ⟨[5, 20], .periodic, .s1, 9, 1⟩ }

theorem periodic_legal (r : RosterId) : (periodic.roster r).Legal := by
  fin_cases r <;> exact ⟨by decide, by decide, by decide, by decide, by decide⟩

theorem test_premises_rostersKept : (∀ r, ((ticking periodic).roster r).Legal) ∧ ∃ t, step (ticking periodic) = .next t :=
  ⟨periodic_legal, _, ticking_step _⟩

/-- The notice of a channel's STALE. -/
def staleOf (c : ChannelId) : Raise := .stale c .timeout 0 0

/-- A Notice Unit that holds the STALE notices of the first `n` channels. -/
def holding (n : Nat) : NoticeUnit := ⟨((List.finRange 128).take n).map fun c => ⟨staleOf c, 0⟩, 0b000010000, 0, 0, 0⟩

/-- Disabled; merged; appended as the 32nd; dropped with 32 pending. -/
theorem test_premises_raise : NoticeUnit.reset.mask.getLsbD (staleOf 3).kind.index = false
    ∧ (holding 5).mask.getLsbD (staleOf 3).kind.index = true
    ∧ (holding 5).queue = (holding 3).queue ++ ⟨staleOf 3, 0⟩ :: [⟨staleOf 4, 0⟩]
    ∧ (∀ x ∈ (holding 3).queue ++ [⟨staleOf 4, 0⟩], (x.content.sameNotice (staleOf 3)) = false)
    ∧ (∀ x ∈ (holding 31).queue, (x.content.sameNotice (staleOf 40)) = false) ∧ (holding 31).queue.length < 32
    ∧ (∀ x ∈ (holding 32).queue, (x.content.sameNotice (staleOf 40)) = false) ∧ 32 ≤ (holding 32).queue.length := by
  decide +kernel

/-- A notice may begin, and a raise that finds no place, or one that merges into the head, follows; a raise that merges elsewhere. -/
theorem test_premises_raiseInside : crowded.tx = none ∧ crowded.ready = none ∧ crowded.replies = []
    ∧ 0 < crowded.notices.credits ∧ crowded.notices.sendMatters (.queueLevel 40 1 1 0) = true
    ∧ crowded.notices.sendMatters (.queueLevel 0 1 1 0) = true ∧ crowded.notices.sendMatters (.queueLevel 5 1 1 0) = false := by
  decide +kernel

theorem test_premises_noticeRequests : (asked ⟨0x38, 1, be 2 511⟩).fresh ⟨0x38, 1, be 2 511⟩ []
    ∧ (asked ⟨0x39, 1, [255]⟩).fresh ⟨0x39, 1, [255]⟩ [] := ⟨asked_fresh _, asked_fresh _⟩

theorem holding_legal : (holding 32).Legal where
  slots := by decide +kernel
  distinct := by decide +kernel
  enabled := by decide +kernel
  coalesced := by decide +kernel
  credits := by decide
  dropped := by decide

theorem test_premises_noticesKept : (ticking { State.reset with notices := holding 32 }).notices.Legal
    ∧ ∃ t, step (ticking { State.reset with notices := holding 32 }) = .next t := ⟨holding_legal, _, ticking_step _⟩

end Sys2Proof.Tests
end

section
/-! Frame formats (01): R5, the successors of the minor frame IDs; R9, R10 and R12, what a PROFILE_LOAD answers. -/

namespace Sys2Proof.Machine

/-! ### The IDs of a major frame, counted from id_base (R4, R5) -/

theorem Profile.idInRange_iff {p : Profile} (hM : 1 ≤ p.majorLength) (i : Nat) :
    p.idInRange i = true ↔ ∃ n < p.majorLength, i = p.idBase + n := by
  simp only [Profile.idInRange, decide_eq_true_eq]
  constructor
  · rintro ⟨hlow, hhigh⟩
    exact ⟨i - p.idBase, by omega, by omega⟩
  · rintro ⟨n, hn, rfl⟩
    omega

theorem Profile.succId_up {p : Profile} (h : p.idDirection = .up) {n : Nat} (hn : n < p.majorLength) :
    p.succId (p.idBase + n) = if n + 1 = p.majorLength then p.idBase else p.idBase + n + 1 := by
  simp only [Profile.succId, h]
  split <;> split <;> omega

theorem Profile.succId_down {p : Profile} (h : p.idDirection = .down) (n : Nat) :
    p.succId (p.idBase + n) = if n = 0 then p.idBase + p.majorLength - 1 else p.idBase + n - 1 := by
  simp only [Profile.succId, h]
  split <;> split <;> omega

/-- How far one successor goes, modulo M: one ID up, or one down, which is M−1 up. -/
def Profile.idStep (p : Profile) : Nat :=
  match p.idDirection with
  | .up => 1
  | .down => p.majorLength - 1

/-- R5 in both directions: the successor is an addition modulo M to the ID's distance from id_base. -/
theorem Profile.succId_eq_add_mod {p : Profile} {n : Nat} (hn : n < p.majorLength) :
    p.succId (p.idBase + n) = p.idBase + (n + p.idStep) % p.majorLength := by
  cases h : p.idDirection with
  | up =>
    have hstep : p.idStep = 1 := by simp only [Profile.idStep, h]
    rw [Profile.succId_up h hn, hstep]
    by_cases hlast : n + 1 = p.majorLength
    · rw [if_pos hlast, hlast, Nat.mod_self, Nat.add_zero]
    · rw [if_neg hlast, Nat.mod_eq_of_lt (by omega), Nat.add_assoc]
  | down =>
    have hstep : p.idStep = p.majorLength - 1 := by simp only [Profile.idStep, h]
    rw [Profile.succId_down h, hstep]
    by_cases hfirst : n = 0
    · rw [if_pos hfirst, hfirst, Nat.zero_add, Nat.mod_eq_of_lt (by omega)]
      omega
    · have hwrap : n + (p.majorLength - 1) = n - 1 + p.majorLength := by omega
      rw [if_neg hfirst, hwrap, Nat.add_mod_right, Nat.mod_eq_of_lt (by omega)]
      omega

theorem Profile.iterate_succId {p : Profile} {n : Nat} (hn : n < p.majorLength) (k : Nat) :
    p.succId^[k] (p.idBase + n) = p.idBase + (n + k * p.idStep) % p.majorLength := by
  induction k with
  | zero => simp [Nat.mod_eq_of_lt hn]
  | succ k ih =>
    rw [Function.iterate_succ_apply', ih, Profile.succId_eq_add_mod (Nat.mod_lt _ (by omega)), Nat.mod_add_mod,
      Nat.add_assoc, Nat.succ_mul]

/-- M successors add a multiple of M. -/
theorem Profile.iterate_succId_majorLength {p : Profile} {n : Nat} (hn : n < p.majorLength) :
    p.succId^[p.majorLength] (p.idBase + n) = p.idBase + n := by
  rw [Profile.iterate_succId hn, Nat.add_mul_mod_self_left, Nat.mod_eq_of_lt hn]

/-- The last ID of a major frame is M−1−n steps up, or n steps down, from the ID at distance n. -/
theorem Profile.exists_iterate_succId_eq_last {p : Profile} {n : Nat} (hn : n < p.majorLength) :
    ∃ k, p.succId^[k] (p.idBase + n) = p.lastMinorId := by
  cases h : p.idDirection with
  | up =>
    refine ⟨p.majorLength - 1 - n, ?_⟩
    have hdist : n + (p.majorLength - 1 - n) * 1 = p.majorLength - 1 := by omega
    simp only [Profile.iterate_succId hn, Profile.idStep, Profile.lastMinorId, h, hdist]
    rw [Nat.mod_eq_of_lt (by omega)]
    omega
  | down =>
    refine ⟨n, ?_⟩
    have hdist : n + n * (p.majorLength - 1) = n * p.majorLength := by
      rw [Nat.add_comm, ← Nat.mul_succ, Nat.succ_eq_add_one, Nat.sub_add_cancel (by omega)]
    simp only [Profile.iterate_succId hn, Profile.idStep, Profile.lastMinorId, h, hdist, Nat.mul_mod_left, Nat.add_zero]

/-- Settles O21: the successor adds a fixed step modulo M to an ID's distance from id_base. -/
theorem successorsCycle : Obligations.SuccessorsCycle := by
  intro p hM
  refine ⟨Profile.idInRange_iff hM, fun n hn h => Profile.succId_up h hn, fun n _ h => Profile.succId_down h n, rfl, ?_⟩
  intro i hi
  obtain ⟨n, hn, rfl⟩ := (Profile.idInRange_iff hM i).1 hi
  refine ⟨(Profile.idInRange_iff hM _).2 ?_, Profile.iterate_succId_majorLength hn,
    Profile.exists_iterate_succId_eq_last hn⟩
  exact ⟨_, Nat.mod_lt _ hM, Profile.succId_eq_add_mod hn⟩

/-! ### The payload of a PROFILE_LOAD (section 10.8) -/

@[simp] theorem LoadFields.bytes_length (f : LoadFields) : f.bytes.length = 28 := by
  simp [LoadFields.bytes]

/-- A field read at the front of a payload is the number laid out there. -/
theorem fieldAt_be_append {n v : Nat} (hv : v < 256 ^ n) (bs : List Byte) : fieldAt (be n v ++ bs) 0 n = v := by
  rw [fieldAt_append_left _ _ (be_length n v), readBE_be_of_lt hv]

theorem fieldAt_be {n v : Nat} (hv : v < 256 ^ n) : fieldAt (be n v) 0 n = v := by
  simpa using fieldAt_be_append hv []

/-- A field read behind another does not depend on it. -/
theorem fieldAt_be_append_of_le {n offset : Nat} (h : n ≤ offset) (v : Nat) (bs : List Byte) (size : Nat) :
    fieldAt (be n v ++ bs) offset size = fieldAt bs (offset - n) size := by
  have hskip := fieldAt_append_right (be n v) bs (offset - n) size
  rwa [be_length, Nat.add_sub_cancel' h] at hskip

/-- R203: every field of a PROFILE_LOAD payload is read back as it was laid out. -/
theorem readLoad_bytes {f : LoadFields} (h : f.fits) : readLoad f.bytes = f := by
  obtain ⟨hslot, hW, hL, hpattern, hN, hM, hposition, hwidth, hbase, hdirection, hparity, hcheck, hhunt, hrelaxed, hlock,
    hverify, hcoast, hinverted⟩ := h
  simp (disch := omega) only [readLoad, LoadFields.bytes, byte_eq_be, List.append_assoc, fieldAt_be_append_of_le,
    fieldAt_be_append, fieldAt_be, Nat.reduceSub]

/-! ### The field checks (R9, R10) -/

/-- Checks numbered by a list are a search of the list. -/
theorem firstFailing_map (l : List Nat) (bad : Nat → Bool) :
    firstFailing (l.map fun n => (n, bad n)) = l.find? bad := by
  induction l with
  | nil => rfl
  | cons n l ih => cases h : bad n <;> simp [firstFailing, h, ih]

theorem LoadFields.lt_of_breaks {f : LoadFields} {n : Nat} (h : f.Breaks n) : n < 18 := by
  by_contra hn
  obtain ⟨k, rfl⟩ := Nat.exists_eq_add_of_le' (Nat.le_of_not_lt hn)
  exact h

open Classical in
/-- The model's eighteen checks are those of R9 and R10, in index order. -/
theorem LoadFields.failing_eq_find (f : LoadFields) :
    f.failing = (List.range 18).find? fun n => decide (f.Breaks n) := by
  rw [← firstFailing_map, LoadFields.failing]
  refine congrArg firstFailing ?_
  simp only [List.range_eq_range', List.range', List.map_cons, List.map_nil, List.cons.injEq, Prod.mk.injEq, true_and,
    and_true, decide_eq_decide]
  simp only [LoadFields.Breaks, LoadFields.syncWords, true_and]
  and_intros <;> omega

/-- R9: the field reported is the first that breaks its range or its dependency. -/
theorem LoadFields.failing_eq_some_iff (f : LoadFields) (n : Nat) :
    f.failing = some n ↔ f.Breaks n ∧ ∀ m < n, ¬ f.Breaks m := by
  rw [LoadFields.failing_eq_find, List.find?_range_eq_some]
  simp only [decide_eq_true_eq, List.mem_range, Bool.not_eq_true', decide_eq_false_iff_not]
  exact ⟨fun ⟨hn, _, hfirst⟩ => ⟨hn, hfirst⟩, fun ⟨hn, hfirst⟩ => ⟨hn, LoadFields.lt_of_breaks hn, hfirst⟩⟩

theorem LoadFields.failing_eq_none_iff (f : LoadFields) : f.failing = none ↔ ∀ n, ¬ f.Breaks n := by
  rw [LoadFields.failing_eq_find, List.find?_range_eq_none]
  simp only [Bool.not_eq_true', decide_eq_false_iff_not]
  exact ⟨fun h n hn => h n (LoadFields.lt_of_breaks hn) hn, fun h n _ => h n⟩

/-! ### PROFILE_LOAD (R12) -/

theorem runProfileLoad_badValue {p : List Byte} {n : Nat} (h : (readLoad p).failing = some n) (s : State) :
    runProfileLoad p s = (.badValue n, s) := by
  simp only [runProfileLoad, h]

theorem runProfileLoad_passed {p : List Byte} (h : (readLoad p).failing = none) {k : Slot}
    (hk : (readLoad p).slot = k.val) (s : State) :
    runProfileLoad p s = if s.slotInUse k then (.plain .inUse, s)
      else (.ok [], s.setProfile k (some (readLoad p).profile)) := by
  simp only [runProfileLoad, h, hk, Fin.ofNat_val_eq_self]

/-- A new PROFILE_LOAD whose payload lays out `f` runs on that payload. -/
theorem exec_profileLoad {s : State} {tag : Byte} {rest : List Request} {f : LoadFields}
    (h : s.fresh ⟨0x08, tag, f.bytes⟩ rest) :
    exec .profileLoad s = .next ((runProfileLoad f.bytes { s with inbound := rest }).2.answer ⟨0x08, tag, f.bytes⟩
      (runProfileLoad f.bytes { s with inbound := rest }).1) := by
  have hlength : lengthAllowed kindProfileLoad f.bytes.length = true := by
    rw [LoadFields.bytes_length]
    decide
  exact congrArg Host.Outcome.next (State.executeKind_asks ⟨h, rfl, hlength⟩ runProfileLoad)

/-- Settles O17: the payload is read back, its first breaking field is the one the checks find, and only when none breaks
does the in-use test decide between the refusal and the store. -/
theorem profileLoad : Obligations.ProfileLoad := by
  intro s tag rest f hfits hfresh
  rw [exec_profileLoad hfresh]
  have hread : readLoad f.bytes = f := readLoad_bytes hfits
  refine ⟨fun n hn hfirst => ?_, fun k hnone hslot => ?_⟩
  · have hfailing : (readLoad f.bytes).failing = some n := by
      rw [hread]
      exact (f.failing_eq_some_iff n).2 ⟨hn, hfirst⟩
    rw [runProfileLoad_badValue hfailing]
    rfl
  · have hfailing : (readLoad f.bytes).failing = none := by
      rw [hread]
      exact f.failing_eq_none_iff.2 hnone
    have huse : ({ s with inbound := rest } : State).slotInUse k = s.slotInUse k := rfl
    rw [runProfileLoad_passed hfailing (hread.symm ▸ hslot), huse, hread]
    cases s.slotInUse k with
    | true => rfl
    | false => rfl

end Sys2Proof.Machine
end

section
/-! Frame tracking and staging (03): R49 to R53, the ID word; R55 and R56, the map lookup and the fragment of an entry. -/

namespace Sys2Proof.Machine

/-! ### The data bits of a word and the ID they spell (R2, R4) -/

theorem Profile.data_noParity {p : Profile} (h : p.parity = .noParity) (w : BitVec 16) : p.data w = w.toNat := by
  simp [Profile.data, Profile.dataBits, h]

/-- With parity the last bit to arrive is not a data bit. -/
theorem Profile.data_parity {p : Profile} (h : p.parity ≠ .noParity) (hW : 1 ≤ p.wordLength) (w : BitVec 16) :
    p.data w = w.toNat / 2 := by
  have hD : p.dataBits = p.wordLength - 1 := by
    cases hp : p.parity with
    | noParity => exact absurd hp h
    | odd => simp only [Profile.dataBits, hp]
    | even => simp only [Profile.dataBits, hp]
  have hone : p.wordLength - (p.wordLength - 1) = 1 := by omega
  rw [Profile.data, hD, hone, Nat.pow_one]

theorem Profile.dataBits_le_wordLength (p : Profile) : p.dataBits ≤ p.wordLength := by
  cases hp : p.parity <;> simp [Profile.dataBits, hp]

theorem Profile.idRead_eq {p : Profile} {b : Nat} (h : p.idWidth = some b) (w : BitVec 16) :
    p.idRead w = p.data w % 2 ^ b := by
  rw [Profile.idRead, h, Option.getD_some]

theorem Profile.idIfInRange_eq (p : Profile) (n : Nat) :
    p.idIfInRange n = if p.idBase ≤ n ∧ n ≤ p.idBase + p.majorLength - 1 then some n else none := by
  simp only [Profile.idIfInRange, Profile.idInRange, decide_eq_true_eq]

theorem Profile.idIfInRange_eq_self_iff (p : Profile) (n : Nat) : p.idIfInRange n = some n ↔ p.idInRange n = true := by
  simp [Profile.idIfInRange]

/-! ### The major tracker at the ID word (R50 to R53) -/

/-- R50: the ID read is in range and the successor of the one read before. -/
def Tracker.succeedsTo (t : Tracker) (p : Profile) (read : Nat) : Prop :=
  p.idIfInRange read = some read ∧ ∃ prev, t.previousId = some prev ∧ p.succId prev = read

theorem Tracker.succeedsTo_iff (t : Tracker) (p : Profile) (read : Nat) :
    t.succeedsTo p read ↔ p.idInRange read = true ∧ t.previousId.map p.succId = some read := by
  rw [Tracker.succeedsTo, Profile.idIfInRange_eq_self_iff, Option.map_eq_some_iff]

section
variable {t : Tracker} {p : Profile} {read : Nat}

theorem Tracker.idWord_gains (hm : t.major = .majorSearch) (h : t.succeedsTo p read) :
    t.idWord p read = ({ t with
      major := .majorLocked, mismatch := 0, majorCount := 0, frameId := some read, previousId := some read,
      lastId := some read }, .gained) := by
  simp only [Tracker.idWord, hm, Tracker.idSearch, if_pos ((t.succeedsTo_iff p read).1 h)]

theorem Tracker.idWord_searches (hm : t.major = .majorSearch) (h : ¬ t.succeedsTo p read) :
    t.idWord p read = ({ t with
      frameId := p.idIfInRange read, previousId := p.idIfInRange read, lastId := p.idIfInRange read }, .quiet) := by
  simp only [Tracker.idWord, hm, Tracker.idSearch, if_neg (mt (t.succeedsTo_iff p read).2 h)]

theorem Tracker.idWord_matches (hm : t.major = .majorLocked) (h : t.frameId = some read) :
    t.idWord p read = ({ t with mismatch := 0, previousId := t.frameId, lastId := t.frameId }, .quiet) := by
  simp only [Tracker.idWord, hm, Tracker.idLocked, if_pos h]

theorem Tracker.idWord_predicts (hm : t.major = .majorLocked) (h : t.frameId ≠ some read) (h0 : t.mismatch = 0) :
    t.idWord p read = ({ t with
      mismatch := 1, flags := { t.flags with idPredicted := true }, previousId := t.frameId, lastId := t.frameId },
      .quiet) := by
  simp only [Tracker.idWord, hm, Tracker.idLocked, if_neg h, if_pos h0]

theorem Tracker.idWord_loses (hm : t.major = .majorLocked) (h : t.frameId ≠ some read) (h0 : t.mismatch ≠ 0) :
    t.idWord p read = ({ t with
      major := .majorSearch, mismatch := 0, extracting := false, previousId := p.idIfInRange read,
      frameId := p.idIfInRange read, lastId := p.idIfInRange read }, .lost) := by
  simp only [Tracker.idWord, hm, Tracker.idLocked, if_neg h, if_neg h0]

end

/-! ### What the ID word does to the part (R51, R53) -/

/-- R38: the report that follows a change of the tracker carries the tracker's new major state. -/
theorem State.raiseSync_setTrk (s : State) (i : StreamId) (t : Tracker) (why : SyncReason) :
    (s.setTrk i t).raiseSync i why = State.raiseAll { s with
      trk := s.trk.set i t
      syn := s.syn.set i { s.syn.get i with lastReason := some why } }
      [.syncState i ⟨(s.syn.get i).mode, (s.syn.get i).phase, t.major, (s.syn.get i).selected, (s.syn.get i).polarity,
        why⟩] := by
  simp only [State.raiseSync, State.syncReport, State.setTrk, State.setSyn, PerStream.get_set]

section
variable {s : State} {i : StreamId} {p : Profile} {t : Tracker}

theorem State.idHandling_quiet (h : (s.trk.get i).idWord p (p.idRead (s.trk.get i).word) = (t, .quiet)) :
    s.idHandling i p = { s with trk := s.trk.set i t } := by
  simp only [State.idHandling, h, State.setTrk]

theorem State.idHandling_gained (h : (s.trk.get i).idWord p (p.idRead (s.trk.get i).word) = (t, .gained)) :
    s.idHandling i p = (s.setTrk i t).raiseSync i .majorGained := by
  simp only [State.idHandling, h]

theorem State.idHandling_lost (h : (s.trk.get i).idWord p (p.idRead (s.trk.get i).word) = (t, .lost)) :
    s.idHandling i p = ((s.setTrk i t).raiseSync i .majorLost).extractionStop i .majorLost := by
  simp only [State.idHandling, h]

end

/-- Settles O34: the ID that the word spells is the one the model reads, and each case of the statement is one row of the
tracker's ID handling. -/
theorem idWord : Obligations.IdWord := by
  intro s i p b hb hW t y read inRange succeeds
  have hread : read = p.idRead t.word := by
    rw [Profile.idRead_eq hb]
    cases hp : p.parity with
    | noParity => simp only [read, hp, Profile.data_noParity hp]
    | odd => simp only [read, hp, Profile.data_parity (hp ▸ nofun) hW]
    | even => simp only [read, hp, Profile.data_parity (hp ▸ nofun) hW]
  have hrange : inRange = p.idIfInRange read := (p.idIfInRange_eq read).symm
  have hsucceeds : succeeds ↔ t.succeedsTo p read := by
    rw [Tracker.succeedsTo, ← hrange]
  clear_value read inRange succeeds
  subst hread hrange
  refine ⟨fun hm h => ?_, fun hm h => ?_, fun hm h => ?_, fun hm h h0 => ?_, fun hm h h1 => ?_⟩
  · rw [State.idHandling_gained (Tracker.idWord_gains hm (hsucceeds.1 h)), State.raiseSync_setTrk]
  · exact State.idHandling_quiet (Tracker.idWord_searches hm (mt hsucceeds.2 h))
  · exact State.idHandling_quiet (Tracker.idWord_matches hm h)
  · exact State.idHandling_quiet (Tracker.idWord_predicts hm h h0)
  · have h0 : t.mismatch ≠ 0 := by omega
    rw [State.idHandling_lost (Tracker.idWord_loses hm h h0), State.raiseSync_setTrk]

/-! ### The map lookup (R55) -/

theorem MapEntry.covers_iff (e : MapEntry) (id : Nat) : e.covers id = true ↔ e.first ≤ id ∧ e.step ∣ id - e.first := by
  rw [MapEntry.covers, decide_eq_true_eq, Nat.dvd_iff_mod_eq_zero]

theorem lookup_pairwise (m : List MapEntry) (i : StreamId) (k : Slot) (pos id : Nat) :
    (lookup m i k pos id).Pairwise fun a b => a.channel ≤ b.channel :=
  have : Std.Total fun a b : MapEntry => a.channel.val ≤ b.channel.val := ⟨fun _ _ => Nat.le_total _ _⟩
  have : IsTrans MapEntry fun a b => a.channel.val ≤ b.channel.val := ⟨fun _ _ _ => Nat.le_trans⟩
  List.pairwise_insertionSort _ _

/-- Sorting keeps every entry as often as the filter does. -/
theorem count_lookup (m : List MapEntry) (i : StreamId) (k : Slot) (pos id : Nat) (e : MapEntry) :
    (lookup m i k pos id).count e
      = if e.stream = i ∧ e.profile = k ∧ e.position = pos ∧ e.first ≤ id ∧ e.step ∣ id - e.first then m.count e else 0 := by
  rw [lookup, (List.perm_insertionSort _ _).count_eq]
  have hkept : (e.stream == i && e.profile == k && e.position == pos && e.covers id) = true
      ↔ e.stream = i ∧ e.profile = k ∧ e.position = pos ∧ e.first ≤ id ∧ e.step ∣ id - e.first := by
    simp only [Bool.and_eq_true, beq_iff_eq, MapEntry.covers_iff, and_assoc]
  split
  next h => exact List.count_filter (hkept.2 h)
  next h => exact List.count_eq_zero.2 fun hmem => h (hkept.1 ((List.mem_filter.1 hmem).2))

/-! ### The fragment of an entry (R56) -/

theorem fragmentValue_lt (D data offset width : Nat) : fragmentValue D data offset width < 2 ^ width :=
  Nat.mod_lt _ (Nat.two_pow_pos width)

/-- The data bits arrive most significant first: data bit `offset + n` is bit `width − 1 − n` of the value. -/
theorem testBit_fragmentValue {D offset width n : Nat} (h : offset + width ≤ D) (hn : n < width) (data : Nat) :
    (fragmentValue D data offset width).testBit (width - 1 - n) = data.testBit (D - 1 - (offset + n)) := by
  have hbit : width - 1 - n < width := by omega
  have hplace : width - 1 - n + (D - offset - width) = D - 1 - (offset + n) := by omega
  simp only [fragmentValue, Nat.testBit_mod_two_pow, hbit, decide_true, Bool.true_and, Nat.testBit_div_two_pow, hplace]

theorem Profile.testBit_data (p : Profile) (w : BitVec 16) (n : Nat) :
    (p.data w).testBit n = w.getLsbD (n + (p.wordLength - p.dataBits)) := by
  rw [Profile.data, Nat.testBit_div_two_pow, BitVec.testBit_toNat]

/-- R56: the bits of the fragment, counted from the first to arrive in the word. -/
theorem Profile.testBit_fragment {p : Profile} {e : MapEntry} (h : e.offset + e.width ≤ p.dataBits) (w : BitVec 16) {n : Nat}
    (hn : n < e.width) :
    (p.fragment w e).value.testBit (e.width - 1 - n) = w.getLsbD (p.wordLength - 1 - (e.offset + n)) := by
  have hD := p.dataBits_le_wordLength
  have hplace : p.dataBits - 1 - (e.offset + n) + (p.wordLength - p.dataBits) = p.wordLength - 1 - (e.offset + n) := by omega
  simp only [Profile.fragment, testBit_fragmentValue h hn, Profile.testBit_data, hplace]

theorem onesIn_eq_length_filter (n : Nat) (w : BitVec 16) :
    onesIn n w = ((List.range n).filter fun k => w.getLsbD k).length :=
  List.countP_eq_length_filter

/-- Settles O35: the lookup sorts the entries that its filter keeps, and the fragment is a run of the word's bits. -/
theorem lookupFinds : Obligations.LookupFinds := by
  refine ⟨fun m i k pos id => ⟨lookup_pairwise m i k pos id, count_lookup m i k pos id⟩, ?_⟩
  intro p w e hfits _ _ f ones
  refine ⟨rfl, rfl, rfl, fragmentValue_lt _ _ _ _, fun n hn => Profile.testBit_fragment hfits w hn, ?_⟩
  have hones : onesIn p.wordLength w = ones := onesIn_eq_length_filter _ _
  have hparity : f.parity = p.parityFails w := rfl
  rw [hparity, Profile.parityFails, hones]
  cases p.parity with
  | noParity => rfl
  | odd => rfl
  | even => rfl

end Sys2Proof.Machine
end

section
/-! The extraction map (04): R73, R74, R91 and R93, the requests on the staged lists; R75, MAP_COMMIT. -/

namespace Sys2Proof.Machine

/-! ### A request's checks and its reply (R191) -/

/-- The state once the executor has placed a request's reply. -/
def Request.doneBy (q : Request) (outcome : Reply × State) : State := outcome.2.answer q outcome.1

/-- R191: a request's work, unless a check before it names an offending field. -/
def unlessFailing (failing : Option Nat) (s : State) (work : Reply × State) : Reply × State :=
  match failing with
  | some index => (.badValue index, s)
  | none => work

/-- A new request with an allowed length is done by the meaning of its row. -/
theorem exec_asks {c : Instr} {kind : Byte} {run : List Byte → State → Reply × State} {s : State} {q : Request}
    {rest : List Request} (hrow : exec c s = .next (s.executeKind kind run)) (h : s.asks q rest kind) :
    exec c s = .next (q.doneBy (run q.payload { s with inbound := rest })) := by
  rw [hrow, State.executeKind_asks h]
  rfl

theorem StreamId.ofField_eq {n : Nat} {i : StreamId} (h : n = i.index) : .ofField n = i := by
  subst h
  cases i <;> rfl

theorem StreamId.not_one_lt {n : Nat} {i : StreamId} (h : n = i.index) : ¬ 1 < n := by
  subst h
  cases i <;> decide

/-- A field in range names the number it holds. -/
theorem fin_mk_eq_ofNat {n v : Nat} [NeZero n] (h : v < n) : (⟨v, h⟩ : Fin n) = Fin.ofNat n v :=
  Fin.ext (Nat.mod_eq_of_lt h).symm

section
variable (s : State) (q : Request) (rest : List Request)

/-- R191, R193: the first check of a list either refuses the request, which then changes nothing, or hands on to the next. -/
theorem Request.doneBy_check (index : Nat) (bad : Prop) [Decidable bad] (checks : List (Nat × Bool)) (work : Reply × State) :
    q.doneBy (unlessFailing (firstFailing ((index, decide bad) :: checks)) { s with inbound := rest } work)
      = if bad then s.answered q rest .badValue [BitVec.ofNat 8 index]
        else q.doneBy (unlessFailing (firstFailing checks) { s with inbound := rest } work) := by
  by_cases h : bad
  · simp only [firstFailing, h, decide_true, if_true]
    rfl
  · simp only [firstFailing, h, decide_false, Bool.false_eq_true, if_false]

theorem Request.doneBy_noCheck (work : Reply × State) :
    q.doneBy (unlessFailing (firstFailing []) { s with inbound := rest } work) = q.doneBy work := rfl

/-- R73, R74: a commit that waits refuses an edit before the list's 64 places are counted. -/
theorem Request.doneBy_stageEdit (i : StreamId) (edit : Edit) :
    q.doneBy (({ s with inbound := rest } : State).stageEdit i edit)
      = if (s.stage.get i).pending then s.answered q rest .busy []
        else if 64 ≤ (s.stage.get i).edits.length then s.answered q rest .noRoom []
        else State.answered
          { s with stage := s.stage.set i { s.stage.get i with edits := (s.stage.get i).edits ++ [edit] } } q rest .ok
          [BitVec.ofNat 8 (s.stage.get i).edits.length, BitVec.ofNat 8 ((s.stage.get i).edits.length + 1)] := by
  rw [State.stageEdit, apply_ite q.doneBy, apply_ite q.doneBy]
  rfl

end

/-! ### The payloads of the map requests (section 10.8) -/

theorem fieldAt_cons_zero (b : Byte) (bs : List Byte) : fieldAt (b :: bs) 0 1 = b.toNat := by
  simp [fieldAt, readBE]

/-- A field behind a byte does not depend on it. -/
theorem fieldAt_cons_of_pos {offset : Nat} (h : 1 ≤ offset) (b : Byte) (bs : List Byte) (size : Nat) :
    fieldAt (b :: bs) offset size = fieldAt bs (offset - 1) size := by
  obtain ⟨k, rfl⟩ := Nat.exists_eq_add_of_le' h
  rfl

theorem readAdd_payload (stream profile channel fragment offset width : Byte) (position first step : BitVec 16) :
    readAdd ([stream, profile] ++ be 2 position.toNat ++ be 2 first.toNat ++ be 2 step.toNat
      ++ [channel, fragment, offset, width])
      = ⟨stream.toNat, profile.toNat, position.toNat, first.toNat, step.toNat, channel.toNat, fragment.toNat, offset.toNat,
        width.toNat⟩ := by
  have hposition : position.toNat < 256 ^ 2 := position.isLt
  have hfirst : first.toNat < 256 ^ 2 := first.isLt
  have hstep : step.toNat < 256 ^ 2 := step.isLt
  simp (disch := omega) only [readAdd, List.cons_append, List.nil_append, List.append_assoc, fieldAt_cons_zero,
    fieldAt_cons_of_pos, fieldAt_be_append, fieldAt_be_append_of_le, Nat.reduceSub]

theorem readRemove_payload (stream channel profile fragment : Byte) :
    readRemove [stream, channel, profile, fragment] = ⟨stream.toNat, channel.toNat, profile.toNat, fragment.toNat⟩ := by
  simp (disch := omega) only [readRemove, fieldAt_cons_zero, fieldAt_cons_of_pos, Nat.reduceSub]

/-- R75, R91: a request whose payload is a stream number refuses a number above 1 and else does its work on that stream. -/
theorem exec_asks_stream {c : Instr} {kind : Byte} {work : StreamId → State → Reply × State} {s : State} {q : Request}
    {rest : List Request} {stream : Byte}
    (hrow : exec c s = .next (s.executeKind kind fun p t =>
      unlessFailing (fieldZeroFailing p 1) t (work (.ofField (fieldAt p 0 1)) t)))
    (hpayload : q.payload = [stream]) (h : s.asks q rest kind) :
    exec c s = .next (
      if 1 < stream.toNat then s.answered q rest .badValue [0]
      else q.doneBy (work (.ofField stream.toNat) { s with inbound := rest })) := by
  have hcheck : fieldZeroFailing [stream] 1 = firstFailing [(0, decide (1 < stream.toNat))] := by
    simp only [fieldZeroFailing, fieldAt_cons_zero, firstFailing, decide_eq_true_eq]
  rw [exec_asks hrow h, hpayload, fieldAt_cons_zero, hcheck, Request.doneBy_check, Request.doneBy_noCheck]
  rfl

/-! ### MAP_ADD and MAP_REMOVE (R73, R74) -/

theorem runMapAdd_eq (p : List Byte) (s : State) : runMapAdd p s
    = unlessFailing (readAdd p).failing s (s.stageEdit (.ofField (readAdd p).stream) (.add (readAdd p).entry)) := rfl

theorem runMapRemove_eq (p : List Byte) (s : State) : runMapRemove p s
    = unlessFailing (readRemove p).failing s (s.stageEdit (.ofField (readRemove p).stream) (readRemove p).edit) := rfl

section
variable {s : State} {rest : List Request} {tag : Byte} {stream profile channel fragment offset width : Byte}
  {position first step : BitVec 16}

/-- R73: MAP_ADD makes its nine checks on the fields laid out, and then stages their entry. -/
theorem exec_mapAdd {q : Request}
    (hq : q = ⟨0x18, tag, [stream, profile] ++ be 2 position.toNat ++ be 2 first.toNat ++ be 2 step.toNat
      ++ [channel, fragment, offset, width]⟩) (h : s.fresh q rest) :
    exec .mapAdd s = .next (
      if 1 < stream.toNat then s.answered q rest .badValue [0]
      else if 4 ≤ profile.toNat then s.answered q rest .badValue [1]
      else if position = 0 ∨ 1024 < position.toNat then s.answered q rest .badValue [2]
      else if 256 < first.toNat then s.answered q rest .badValue [3]
      else if 256 < step.toNat then s.answered q rest .badValue [4]
      else if 128 ≤ channel.toNat then s.answered q rest .badValue [5]
      else if 3 < fragment.toNat then s.answered q rest .badValue [6]
      else if 15 < offset.toNat then s.answered q rest .badValue [7]
      else if width = 0 ∨ 16 < width.toNat then s.answered q rest .badValue [8]
      else q.doneBy (({ s with inbound := rest } : State).stageEdit (.ofField stream.toNat) (.add
        ⟨.ofField stream.toNat, Fin.ofNat 4 profile.toNat, position.toNat, first.toNat, step.toNat,
          Fin.ofNat 128 channel.toNat, fragment.toNat, offset.toNat, width.toNat⟩))) := by
  have hasks : s.asks q rest kindMapAdd := by
    subst hq
    exact ⟨h, rfl, rfl⟩
  have hpayload := congrArg Request.payload hq
  have hread := readAdd_payload stream profile channel fragment offset width position first step
  have hposition : position.toNat < 1 ↔ position = 0 := by rw [Nat.lt_one_iff, BitVec.toNat_eq]; rfl
  have hwidth : width.toNat < 1 ↔ width = 0 := by rw [Nat.lt_one_iff, BitVec.toNat_eq]; rfl
  rw [exec_asks rfl hasks, runMapAdd_eq, hpayload, hread]
  simp only [AddFields.failing, Request.doneBy_check, Request.doneBy_noCheck, hposition, hwidth]
  rfl

/-- R74: MAP_REMOVE makes its four checks on the fields laid out, and then stages their edit. -/
theorem exec_mapRemove {q : Request} (hq : q = ⟨0x19, tag, [stream, channel, profile, fragment]⟩) (h : s.fresh q rest) :
    exec .mapRemove s = .next (
      if 1 < stream.toNat then s.answered q rest .badValue [0]
      else if 128 ≤ channel.toNat then s.answered q rest .badValue [1]
      else if 4 ≤ profile.toNat then s.answered q rest .badValue [2]
      else if 3 < fragment.toNat ∧ fragment ≠ 0xFF then s.answered q rest .badValue [3]
      else q.doneBy (({ s with inbound := rest } : State).stageEdit (.ofField stream.toNat)
        (if fragment = 0xFF then .removeAll (Fin.ofNat 128 channel.toNat) (Fin.ofNat 4 profile.toNat)
          else .remove (Fin.ofNat 128 channel.toNat) (Fin.ofNat 4 profile.toNat) fragment.toNat))) := by
  have hasks : s.asks q rest kindMapRemove := by
    subst hq
    exact ⟨h, rfl, rfl⟩
  have hpayload := congrArg Request.payload hq
  have hread := readRemove_payload stream channel profile fragment
  have hall : fragment.toNat = 0xFF ↔ fragment = 0xFF := by rw [BitVec.toNat_eq]; rfl
  rw [exec_asks rfl hasks, runMapRemove_eq, hpayload, hread]
  simp only [RemoveFields.failing, RemoveFields.edit, Request.doneBy_check, Request.doneBy_noCheck, ne_eq, hall]
  rfl

end

/-! ### MAP_DISCARD and MAP_LIST (R91, R93) -/

section
variable {s : State} {rest : List Request}

/-- R91: the reply tells what the list and the flag were before. -/
theorem exec_mapDiscard {q : Request} {tag stream : Byte} (hq : q = ⟨0x1B, tag, [stream]⟩) (h : s.fresh q rest) :
    exec .mapDiscard s = .next (
      if 1 < stream.toNat then s.answered q rest .badValue [0]
      else State.answered { s with stage := s.stage.set (.ofField stream.toNat) ⟨[], false, 0⟩ } q rest .ok
        [BitVec.ofNat 8 (s.stage.get (.ofField stream.toNat)).edits.length,
          if (s.stage.get (.ofField stream.toNat)).pending then 1 else 0]) := by
  have hasks : s.asks q rest kindMapDiscard := by
    subst hq
    exact ⟨h, rfl, rfl⟩
  rw [exec_asks_stream (work := fun i t =>
    (.ok (byte (t.stage.get i).edits.length ++ yesNo (t.stage.get i).pending), t.setStage i .reset)) rfl
    (congrArg Request.payload hq) hasks]
  cases (s.stage.get (.ofField stream.toNat)).pending with
  | true => rfl
  | false => rfl

/-- R93: a report leaves the part as it was. -/
theorem exec_mapList {q : Request} {tag : Byte} {start : BitVec 16} (hq : q = ⟨0x1C, tag, be 2 start.toNat⟩)
    (h : s.fresh q rest) :
    exec .mapList s = .next (if 511 < start.toNat then s.answered q rest .badValue [0]
      else s.answered q rest .ok (s.mapReport start.toNat)) := by
  have hasks : s.asks q rest kindMapList := by
    subst hq
    exact ⟨h, rfl, rfl⟩
  have hstart : fieldAt q.payload 0 2 = start.toNat := by rw [hq]; exact fieldAt_be start.isLt
  rw [exec_asks rfl hasks, runMapList, hstart, apply_ite q.doneBy]
  rfl

/-- R93, section 10.8: the bytes of a MAP_LIST reply. -/
theorem State.mapReport_eq (s : State) (start : Nat) :
    s.mapReport start = be 2 s.map.length
      ++ [BitVec.ofNat 8 s.stage.s0.edits.length, BitVec.ofNat 8 s.stage.s1.edits.length,
        BitVec.ofNat 8 (s.stage.s0.pending.toNat + 2 * s.stage.s1.pending.toNat)]
      ++ be 2 start ++ [BitVec.ofNat 8 ((s.map.drop start).take 12).length]
      ++ ((s.map.drop start).take 12).flatMap fun e =>
        [BitVec.ofNat 8 e.stream.index, BitVec.ofNat 8 e.profile.val] ++ be 2 e.position ++ be 2 e.first ++ be 2 e.step
          ++ [BitVec.ofNat 8 e.channel.val, BitVec.ofNat 8 e.fragment, BitVec.ofNat 8 e.offset, BitVec.ofNat 8 e.width] := by
  have hentry (e : MapEntry) : e.bytes = [BitVec.ofNat 8 e.stream.index, BitVec.ofNat 8 e.profile.val] ++ be 2 e.position
      ++ be 2 e.first ++ be 2 e.step ++ [BitVec.ofNat 8 e.channel.val, BitVec.ofNat 8 e.fragment, BitVec.ofNat 8 e.offset,
        BitVec.ofNat 8 e.width] := by
    simp only [MapEntry.bytes, byte, List.append_assoc, List.cons_append, List.nil_append]
  simp only [State.mapReport, funext hentry, Config.listPage, byte, PerStream.get_s0, PerStream.get_s1, List.append_assoc,
    List.cons_append, List.nil_append]

end

/-- Settles O37: each request makes its checks in index order on the fields laid out, and the last case stages, discards or
reports. -/
theorem mapStagedLists : Obligations.MapStagedLists := by
  refine ⟨fun s tag stream profile channel fragment offset width position first step rest => ?_,
    fun s tag stream start rest => ?_⟩
  · intro add remove staged
    have hstaged (q : Request) (i : StreamId) (edit : Edit) :
        q.doneBy (({ s with inbound := rest } : State).stageEdit i edit) = staged q i edit := Request.doneBy_stageEdit ..
    clear_value staged
    refine ⟨fun hfresh => ⟨fun hbad => ?_, fun i hi => ?_⟩, fun hfresh => ⟨fun hbad => ?_, fun i hi => ?_⟩⟩
    · rw [exec_mapAdd rfl hfresh, if_pos hbad]
    · rw [exec_mapAdd rfl hfresh, if_neg (StreamId.not_one_lt hi), hstaged, StreamId.ofField_eq hi]
      simp only [fin_mk_eq_ofNat, dite_eq_ite]
      rfl
    · rw [exec_mapRemove rfl hfresh, if_pos hbad]
    · rw [exec_mapRemove rfl hfresh, if_neg (StreamId.not_one_lt hi), hstaged, StreamId.ofField_eq hi]
      simp only [fin_mk_eq_ofNat, dite_eq_ite]
      rfl
  · refine ⟨fun hfresh => ⟨fun hbad => ?_, fun i hi => ?_⟩, fun hfresh => ?_⟩
    · rw [exec_mapDiscard rfl hfresh, if_pos hbad]
    · rw [exec_mapDiscard rfl hfresh, if_neg (StreamId.not_one_lt hi), StreamId.ofField_eq hi]
    · rw [exec_mapList rfl hfresh, State.mapReport_eq]

/-! ### MAP_COMMIT (R75) -/

/-- R193: the reasons are numbered from 1 in the order of the table. -/
theorem MapReason.code_eq_idxOf (r : MapReason) : r.code = ([.noEntry, .noChannel, .noProfile, .position, .bits, .selector,
    .duplicate, .capacity, .incomplete, .order, .width, .staging] : List MapReason).idxOf r + 1 := by
  cases r <;> rfl

/-- R76: the checks of the edits read the channels and the profiles, not the inbound queue. -/
theorem State.checkEdits_inbound (s : State) (rest : List Request) (i : StreamId) (growth : Int) (n : Nat)
    (copy : List MapEntry) (edits : List Edit) :
    ({ s with inbound := rest } : State).checkEdits i growth n copy edits = s.checkEdits i growth n copy edits := by
  induction edits generalizing n copy with
  | nil => rfl
  | cons edit edits ih =>
    have hedit : ({ s with inbound := rest } : State).editFails i growth copy edit = s.editFails i growth copy edit := by
      cases edit <;> rfl
    simp only [State.checkEdits, hedit, ih]

theorem State.validate_inbound (s : State) (rest : List Request) (i : StreamId) :
    ({ s with inbound := rest } : State).validate i = s.validate i := by
  simp only [State.validate, State.checkEdits_inbound]
  rfl

theorem MapFailure.bytes_eq (f : MapFailure) : f.bytes
    = [BitVec.ofNat 8 f.edit, BitVec.ofNat 8 f.reason.code, BitVec.ofNat 8 ((f.channel.map Fin.val).getD 0xFF),
        BitVec.ofNat 8 ((f.profile.map Fin.val).getD 0xFF)] ++ be 2 (f.minorId.getD 0xFFFF) := rfl

/-- R75: what a commit of a stream's list does, with the request's reply. -/
theorem Request.doneBy_commit (s : State) (q : Request) (rest : List Request) (i : StreamId) :
    q.doneBy (({ s with inbound := rest } : State).commit i)
      = if (s.stage.get i).pending then s.answered q rest .busy []
        else if (s.stage.get i).edits = [] then s.answered q rest .ok (0 :: be 2 s.map.length)
        else match s.validate i with
          | some f => s.answered q rest .invalidMap f.bytes
          | none =>
            if s.extractionActive i then (s.makePending i).answered q rest .accepted
              (BitVec.ofNat 8 (s.stage.get i).edits.length :: be 2 s.map.length)
            else (s.applyCommit i).answered q rest .ok
              (BitVec.ofNat 8 (s.stage.get i).edits.length :: be 2 (applyEdits i s.map (s.stage.get i).edits).length) := by
  rw [State.commit, State.validate_inbound, apply_ite q.doneBy, apply_ite q.doneBy]
  cases s.validate i with
  | some f => rfl
  | none =>
    simp only [apply_ite q.doneBy]
    rfl

/-- R75: a commit of stream 0 or 1 is the commit of its staged list. -/
theorem exec_mapCommit {s : State} {q : Request} {rest : List Request} {tag stream : Byte} (hq : q = ⟨0x1A, tag, [stream]⟩)
    (h : s.fresh q rest) :
    exec .mapCommit s = .next (
      if 1 < stream.toNat then s.answered q rest .badValue [0]
      else q.doneBy (({ s with inbound := rest } : State).commit (.ofField stream.toNat))) := by
  have hasks : s.asks q rest kindMapCommit := by
    subst hq
    exact ⟨h, rfl, rfl⟩
  exact exec_asks_stream (work := fun i t => t.commit i) rfl (congrArg Request.payload hq) hasks

/-- Settles O38: the commit's cases are the statement's, once the reason's code is its place in the table. -/
theorem mapCommitted : Obligations.MapCommitted := by
  intro s tag stream rest q hfresh
  refine ⟨fun hbad => ?_, fun i hi => ?_⟩
  · rw [exec_mapCommit rfl hfresh, if_pos hbad]
  · rw [exec_mapCommit rfl hfresh, if_neg (StreamId.not_one_lt hi), StreamId.ofField_eq hi, Request.doneBy_commit]
    simp only [MapFailure.bytes_eq, MapReason.code_eq_idxOf]
    rfl

end Sys2Proof.Machine
end

section
/-! Channels (05): R98 to R101, CHANNEL_BIND and CHANNEL_UNBIND; R102 and R103, CHANNEL_SET; R115, a RESET of scope CHANNELS. -/

namespace Sys2Proof.Machine

/-! ### RESET of scope CHANNELS (R115, R199) -/

theorem resetRefusal_channels (tag : Byte) : resetRefusal ⟨0x03, tag, [2]⟩ = none := rfl

theorem takesReset_channels (tag : Byte) : takesReset 2 ⟨0x03, tag, [2]⟩ = true := rfl

/-- Settles O6: the request is the row's own and is not refused, so the reset's reply follows its work. -/
theorem channelsReset : Obligations.ChannelsReset := by
  intro s tag rest hfresh
  have hrow : exec .resetChannels s = .next (s.takeRequest (takesReset 2) actResetChannels) := rfl
  rw [hrow, State.takeRequest_fresh hfresh (takesReset_channels tag), actResetChannels, resetRefusal_channels]
  rfl

/-! ### Fields that are compared with 0 or 1 -/

theorem bitVec_toNat_eq_zero_iff {n : Nat} (b : BitVec n) : b.toNat = 0 ↔ b = 0 := by
  rw [BitVec.toNat_eq]
  rfl

theorem byte_toNat_eq_one_iff (b : Byte) : b.toNat = 1 ↔ b = 1 := by
  rw [BitVec.toNat_eq]
  rfl

theorem byte_toNat_beq_one (b : Byte) : (b.toNat == 1) = decide (b = 1) := by
  rw [beq_eq_decide, decide_eq_decide, byte_toNat_eq_one_iff]

/-! ### Requests on one channel -/

/-- R100, R105: a request whose payload is a channel number refuses a number above 127 and else does its work on that
channel. -/
theorem exec_asks_channel {c : Instr} {kind : Byte} {work : ChannelId → State → Reply × State} {s : State} {q : Request}
    {rest : List Request} {channel : Byte}
    (hrow : exec c s = .next (s.executeKind kind fun p t =>
      unlessFailing (fieldZeroFailing p 127) t (work (Fin.ofNat 128 (fieldAt p 0 1)) t)))
    (hpayload : q.payload = [channel]) (h : s.asks q rest kind) :
    exec c s = .next (
      if 127 < channel.toNat then s.answered q rest .badValue [0]
      else q.doneBy (work (Fin.ofNat 128 channel.toNat) { s with inbound := rest })) := by
  have hcheck : fieldZeroFailing [channel] 127 = firstFailing [(0, decide (127 < channel.toNat))] := by
    simp only [fieldZeroFailing, fieldAt_cons_zero, firstFailing, decide_eq_true_eq]
  rw [exec_asks hrow h, hpayload, fieldAt_cons_zero, hcheck, Request.doneBy_check, Request.doneBy_noCheck]
  rfl

theorem ChannelId.ofNat_eq {n : Nat} {c : ChannelId} (h : n = c.val) : Fin.ofNat 128 n = c := by
  rw [h, Fin.ofNat_val_eq_self]

theorem ChannelId.not_127_lt {n : Nat} {c : ChannelId} (h : n = c.val) : ¬ 127 < n := by
  have hc := c.isLt
  omega

/-! ### CHANNEL_BIND (R98, R99) -/

/-- R98, R99: what a bind with fields in range does. -/
def State.bindChannel (s : State) (c : ChannelId) (config : ChannelConfig) : Reply × State :=
  if (s.channel c).isSome then (.plain .inUse, s)
  else if s.poolFree < config.capacity then (⟨.noRoom, be 2 s.poolFree⟩, s)
  else
    (.ok (be 2 (s.poolFree - config.capacity)),
      { s.setChannel c (some (.fresh config)) with poolFree := s.poolFree - config.capacity })

theorem runChannelBind_eq (p : List Byte) (s : State) : runChannelBind p s
    = unlessFailing (readBind p).failing s (s.bindChannel (Fin.ofNat 128 (readBind p).channel) (readBind p).config) := rfl

theorem Request.doneBy_bindChannel (s : State) (q : Request) (rest : List Request) (c : ChannelId) (config : ChannelConfig) :
    q.doneBy (({ s with inbound := rest } : State).bindChannel c config)
      = if (s.channel c).isSome then s.answered q rest .inUse []
        else if s.poolFree < config.capacity then s.answered q rest .noRoom (be 2 s.poolFree)
        else State.answered
          { s with
            channels := s.channels.set c.val (some (.fresh config)), poolFree := s.poolFree - config.capacity }
          q rest .ok (be 2 (s.poolFree - config.capacity)) := by
  rw [State.bindChannel, apply_ite q.doneBy, apply_ite q.doneBy]
  rfl

theorem readBind_payload (channel stream fragments signed policy : Byte) (capacity watermark : BitVec 16) :
    readBind ([channel, stream, fragments, signed] ++ be 2 capacity.toNat ++ [policy] ++ be 2 watermark.toNat)
      = ⟨channel.toNat, stream.toNat, fragments.toNat, signed.toNat, capacity.toNat, policy.toNat, watermark.toNat⟩ := by
  have hcapacity : capacity.toNat < 256 ^ 2 := capacity.isLt
  have hwatermark : watermark.toNat < 256 ^ 2 := watermark.isLt
  simp (disch := omega) only [readBind, List.cons_append, List.nil_append, List.append_assoc, fieldAt_cons_zero,
    fieldAt_cons_of_pos, fieldAt_be_append, fieldAt_be_append_of_le, fieldAt_be, Nat.reduceSub]

/-- R98: CHANNEL_BIND makes its seven checks on the fields laid out, and then binds with their configuration. -/
theorem exec_channelBind {s : State} {rest : List Request} {tag channel stream fragments signed policy : Byte}
    {capacity watermark : BitVec 16} {q : Request}
    (hq : q = ⟨0x20, tag, [channel, stream, fragments, signed] ++ be 2 capacity.toNat ++ [policy] ++ be 2 watermark.toNat⟩)
    (h : s.fresh q rest) :
    exec .channelBind s = .next (
      if 127 < channel.toNat then s.answered q rest .badValue [0]
      else if 1 < stream.toNat then s.answered q rest .badValue [1]
      else if fragments = 0 ∨ 4 < fragments.toNat then s.answered q rest .badValue [2]
      else if 1 < signed.toNat then s.answered q rest .badValue [3]
      else if 512 < capacity.toNat then s.answered q rest .badValue [4]
      else if 1 < policy.toNat then s.answered q rest .badValue [5]
      else if capacity.toNat < watermark.toNat then s.answered q rest .badValue [6]
      else q.doneBy (({ s with inbound := rest } : State).bindChannel (Fin.ofNat 128 channel.toNat)
        ⟨if stream = 0 then .s0 else .s1, fragments.toNat, decide (signed = 1), capacity.toNat,
          if policy = 0 then .keepOldest else .keepNewest, watermark.toNat⟩)) := by
  have hasks : s.asks q rest kindChannelBind := by
    subst hq
    exact ⟨h, rfl, rfl⟩
  have hpayload := congrArg Request.payload hq
  have hread := readBind_payload channel stream fragments signed policy capacity watermark
  rw [exec_asks rfl hasks, runChannelBind_eq, hpayload, hread]
  simp only [BindFields.failing, BindFields.config, StreamId.ofField, Request.doneBy_check, Request.doneBy_noCheck,
    Nat.lt_one_iff, byte_toNat_beq_one, bitVec_toNat_eq_zero_iff]
  rfl

/-! ### CHANNEL_UNBIND (R100, R101) -/

/-- R100, R101: what an unbind of a channel of the table does. -/
def State.unbindChannel (s : State) (c : ChannelId) : Reply × State :=
  match s.channel c with
  | none => (.ok (yesNo false ++ be 2 0 ++ be 2 s.poolFree), s)
  | some ch =>
    if 0 < s.committedClaims c + s.stagedClaims c then (⟨.inUse, be 2 (s.committedClaims c) ++ byte (s.stagedClaims c)⟩, s)
    else
      (.ok (yesNo true ++ be 2 ch.queue.records.length ++ be 2 (s.poolFree + ch.config.capacity)),
        { s.setChannel c none with poolFree := s.poolFree + ch.config.capacity })

/-- R100: CHANNEL_UNBIND checks the channel number and unbinds the channel. -/
theorem exec_channelUnbind {s : State} {rest : List Request} {tag channel : Byte} {q : Request}
    (hq : q = ⟨0x21, tag, [channel]⟩) (h : s.fresh q rest) :
    exec .channelUnbind s = .next (
      if 127 < channel.toNat then s.answered q rest .badValue [0]
      else q.doneBy (({ s with inbound := rest } : State).unbindChannel (Fin.ofNat 128 channel.toNat))) := by
  have hasks : s.asks q rest kindChannelUnbind := by
    subst hq
    exact ⟨h, rfl, rfl⟩
  exact exec_asks_channel (work := fun c t => t.unbindChannel c) rfl (congrArg Request.payload hq) hasks

theorem Request.doneBy_unbindChannel_unbound {s : State} {c : ChannelId} (hc : s.channel c = none) (q : Request)
    (rest : List Request) :
    q.doneBy (({ s with inbound := rest } : State).unbindChannel c)
      = s.answered q rest .ok (0 :: 0 :: 0 :: be 2 s.poolFree) := by
  have hinbound : ({ s with inbound := rest } : State).channel c = none := hc
  rw [State.unbindChannel, hinbound]
  rfl

theorem Request.doneBy_unbindChannel_bound {s : State} {c : ChannelId} {ch : Channel} (hc : s.channel c = some ch)
    (q : Request) (rest : List Request) :
    q.doneBy (({ s with inbound := rest } : State).unbindChannel c)
      = if 0 < s.committedClaims c + s.stagedClaims c then
          s.answered q rest .inUse (be 2 (s.committedClaims c) ++ [BitVec.ofNat 8 (s.stagedClaims c)])
        else State.answered
          { s with channels := s.channels.set c.val none, poolFree := s.poolFree + ch.config.capacity } q rest .ok
          (1 :: (be 2 ch.queue.records.length ++ be 2 (s.poolFree + ch.config.capacity))) := by
  have hinbound : ({ s with inbound := rest } : State).channel c = some ch := hc
  rw [State.unbindChannel, hinbound]
  exact apply_ite q.doneBy _ _ _

/-- R69: the committed claims on a channel are its entries. -/
theorem State.committedClaims_eq_length (s : State) (c : ChannelId) :
    s.committedClaims c = (s.map.filter fun e => e.channel = c).length :=
  List.countP_eq_length_filter

/-- Settles O43: the fields are read back and checked in order, and the bind's and the unbind's cases are the statement's,
the claims counted as it counts them. -/
theorem channelBinding : Obligations.ChannelBinding := by
  refine ⟨?_, ?_⟩
  · intro s tag channel stream fragments signed policy capacity watermark rest q hfresh
    refine ⟨fun hbad => ?_, fun c hc => ?_⟩
    · rw [exec_channelBind rfl hfresh, if_pos hbad]
    · rw [exec_channelBind rfl hfresh, if_neg (ChannelId.not_127_lt hc), ChannelId.ofNat_eq hc, Request.doneBy_bindChannel]
      rfl
  · intro s tag channel rest hfresh
    refine ⟨fun hbad => ?_, fun c hc => ?_⟩
    · rw [exec_channelUnbind rfl hfresh, if_pos hbad]
    · intro committed adds
      have hcommitted : s.committedClaims c = committed := s.committedClaims_eq_length c
      have hadds (i : StreamId) : (s.stage.get i).edits.countP (Edit.addsChannel c) = adds i := by
        rw [List.countP_eq_length_filter]
        refine congrArg List.length (List.filter_congr fun e _ => ?_)
        cases e <;> rfl
      have hstaged : s.stagedClaims c = adds .s0 + adds .s1 := by rw [State.stagedClaims, hadds, hadds]
      clear_value committed adds
      rw [exec_channelUnbind rfl hfresh, if_neg (ChannelId.not_127_lt hc), ChannelId.ofNat_eq hc]
      cases hch : s.channel c with
      | none => rw [Request.doneBy_unbindChannel_unbound hch]
      | some ch => rw [Request.doneBy_unbindChannel_bound hch, hcommitted, hstaged]

/-! ### The limits and the raise of a CHANNEL_SET (R103, R126 to R130) -/

/-- R126 to R130: an evaluation against a settled value, a change or none. -/
theorem Channel.evaluate_settled {ch : Channel} {v : Settled} (h : ch.settled = some v) (c : ChannelId) (cause : LimitCause) :
    ch.evaluate c cause
      = ({ ch with
            limit := ch.limitFor v
            latches := ch.latches ||| if ch.limitFor v = ch.limit then 0 else (ch.limitFor v).latch },
          if ch.limitFor v = ch.limit then [] else ch.note (.limit c ch.limit (ch.limitFor v) v cause)) := by
  unfold Channel.evaluate
  split
  next hnone => exact absurd (hnone.symm.trans h) nofun
  next w hsome =>
    obtain rfl : w = v := Option.some.inj (hsome.symm.trans h)
    by_cases hsame : ch.limitFor w = ch.limit
    · rw [if_pos hsame, if_pos hsame, if_pos hsame, hsame]
      simp only [BitVec.ofNat_eq_ofNat, BitVec.or_zero]
    · simp only [if_neg hsame]

theorem Channel.evaluate_unsettled {ch : Channel} (h : ch.settled = none) (c : ChannelId) (cause : LimitCause) :
    ch.evaluate c cause = (ch, []) := by
  simp only [Channel.evaluate, h]

/-- R103: the record with the settings stored, agreement restarted and the stale timer dealt with, before its limits are
evaluated. -/
def Channel.stored (ch : Channel) (now : Time) (t : ChannelSettings) : Channel :=
  { ch.restartAgreement with settings := t, staleTimer := ch.staleTimerAfterSet now t }

theorem Channel.applySettings_stored (ch : Channel) (now : Time) (c : ChannelId) (t : ChannelSettings) :
    ch.applySettings now c t
      = if ch.settings.limitsDiffer t then (ch.stored now t).evaluate c .set else (ch.stored now t, []) := rfl

/-- R103 step 2: the limit state after new settings. -/
def Channel.limitAfterSet (ch : Channel) (t : ChannelSettings) : LimitState :=
  match ch.settled with
  | none => ch.limit
  | some v => if ch.settings.limitsDiffer t then ({ ch with settings := t } : Channel).limitFor v else ch.limit

/-- R103 step 2: the raise of new settings. -/
def Channel.raisesAfterSet (ch : Channel) (c : ChannelId) (t : ChannelSettings) : List Raise :=
  match ch.settled with
  | none => []
  | some v =>
    if ch.limitAfterSet t ≠ ch.limit ∧ t.notes .limit = true then [.limit c ch.limit (ch.limitAfterSet t) v .set] else []

/-- R103: the record of new settings, field by field. -/
def Channel.afterSet (ch : Channel) (now : Time) (t : ChannelSettings) : Channel :=
  { ch with
    settings := t, candidate := none, agree := 0, limit := ch.limitAfterSet t
    latches := ch.latches ||| if ch.limitAfterSet t = ch.limit then 0 else (ch.limitAfterSet t).latch
    staleTimer := ch.staleTimerAfterSet now t }

section
variable {ch : Channel} {t : ChannelSettings}

theorem Channel.limitAfterSet_unsettled (h : ch.settled = none) (t : ChannelSettings) : ch.limitAfterSet t = ch.limit := by
  simp only [Channel.limitAfterSet, h]

theorem Channel.limitAfterSet_settled {v : Settled} (h : ch.settled = some v) (t : ChannelSettings) :
    ch.limitAfterSet t
      = if ch.settings.limitsDiffer t then ({ ch with settings := t } : Channel).limitFor v else ch.limit := by
  simp only [Channel.limitAfterSet, h]

theorem Channel.raisesAfterSet_settled {v : Settled} (h : ch.settled = some v) (c : ChannelId) (t : ChannelSettings) :
    ch.raisesAfterSet c t = if ch.limitAfterSet t ≠ ch.limit ∧ t.notes .limit = true then
      [.limit c ch.limit (ch.limitAfterSet t) v .set] else [] := by
  simp only [Channel.raisesAfterSet, h]

/-- Settings that keep the limit state set no latch and raise nothing. -/
theorem Channel.afterSet_of_same (h : ch.limitAfterSet t = ch.limit) (now : Time) : ch.afterSet now t = ch.stored now t := by
  simp only [Channel.afterSet, h, if_true, BitVec.ofNat_eq_ofNat, BitVec.or_zero]
  rfl

theorem Channel.raisesAfterSet_of_same (h : ch.limitAfterSet t = ch.limit) (c : ChannelId) : ch.raisesAfterSet c t = [] := by
  unfold Channel.raisesAfterSet
  split
  · rfl
  · exact if_neg fun hmoved => hmoved.1 h

/-- R103: settings whose limits differ evaluate the settled value, where there is one; others leave the limit state. -/
theorem Channel.applySettings_eq (ch : Channel) (now : Time) (c : ChannelId) (t : ChannelSettings) :
    ch.applySettings now c t = (ch.afterSet now t, ch.raisesAfterSet c t) := by
  have hkept (h : ch.limitAfterSet t = ch.limit) :
      (ch.stored now t, []) = (ch.afterSet now t, ch.raisesAfterSet c t) := by
    rw [Channel.afterSet_of_same h, Channel.raisesAfterSet_of_same h]
  rw [Channel.applySettings_stored]
  cases hs : ch.settled with
  | none =>
    have hunsettled : (ch.stored now t).settled = none := hs
    rw [Channel.evaluate_unsettled hunsettled, ite_self, hkept (Channel.limitAfterSet_unsettled hs t)]
  | some v =>
    have hsettled : (ch.stored now t).settled = some v := hs
    have hlimit := Channel.limitAfterSet_settled hs t
    cases hdiffer : ch.settings.limitsDiffer t with
    | false =>
      rw [hdiffer] at hlimit
      exact hkept hlimit
    | true =>
      have hevaluated : ch.limitAfterSet t = (ch.stored now t).limitFor v := by
        rw [hlimit, hdiffer]
        rfl
      rw [if_pos rfl, Channel.evaluate_settled hsettled, Channel.raisesAfterSet_settled hs, Channel.afterSet, hevaluated,
        ite_and, ite_not]
      rfl

end

/-! ### CHANNEL_SET (R102, R103) -/

/-- R102, R103: what settings in range do. -/
def State.setChannelSettings (s : State) (c : ChannelId) (t : ChannelSettings) : Reply × State :=
  match s.channel c with
  | none => (.plain .noSuch, s)
  | some ch =>
    (.ok (byte (ch.applySettings s.timebase c t).1.limit.code),
      (s.setChannel c (some (ch.applySettings s.timebase c t).1)).raiseAll (ch.applySettings s.timebase c t).2)

theorem runChannelSet_eq (p : List Byte) (s : State) : runChannelSet p s
    = unlessFailing ((readSet p).failing (s.channel (Fin.ofNat 128 (readSet p).channel))) s
      (s.setChannelSettings (Fin.ofNat 128 (readSet p).channel) (readSet p).settings) := rfl

theorem readSet_payload (channel settle enabled kinds : Byte) (deadband stale : BitVec 16) (low high hyst : BitVec 32) :
    readSet ([channel, settle] ++ be 2 deadband.toNat ++ [enabled] ++ be 4 low.toNat ++ be 4 high.toNat ++ be 4 hyst.toNat
      ++ be 2 stale.toNat ++ [kinds])
      = ⟨channel.toNat, settle.toNat, deadband.toNat, enabled.toNat, low.toNat, high.toNat, hyst.toNat, stale.toNat,
        kinds.toNat⟩ := by
  have hdeadband : deadband.toNat < 256 ^ 2 := deadband.isLt
  have hlow : low.toNat < 256 ^ 4 := low.isLt
  have hhigh : high.toNat < 256 ^ 4 := high.isLt
  have hhyst : hyst.toNat < 256 ^ 4 := hyst.isLt
  have hstale : stale.toNat < 256 ^ 2 := stale.isLt
  simp (disch := omega) only [readSet, List.cons_append, List.nil_append, List.append_assoc, fieldAt_cons_zero,
    fieldAt_cons_of_pos, fieldAt_be_append, fieldAt_be_append_of_le, Nat.reduceSub]

/-- The settings laid out by a CHANNEL_SET. -/
theorem SetFields.settings_ofBytes (channel settle enabled kinds : Byte) (deadband stale : BitVec 16)
    (low high hyst : BitVec 32) :
    (⟨channel.toNat, settle.toNat, deadband.toNat, enabled.toNat, low.toNat, high.toNat, hyst.toNat, stale.toNat,
        kinds.toNat⟩ : SetFields).settings
      = ⟨settle.toNat, deadband.toNat, decide (enabled = 1), low, high, hyst, stale.toNat, kinds.setWidth 6⟩ := by
  simp only [SetFields.settings, byte_toNat_beq_one, BitVec.ofNat_toNat, BitVec.setWidth_eq]

/-- R102: the five checks, the limits' written as a proposition. -/
theorem SetFields.failing_eq (f : SetFields) (bound : Option Channel) : f.failing bound = firstFailing
    [(0, decide (127 < f.channel)), (1, decide (f.settleCount < 1 ∨ 15 < f.settleCount)), (3, decide (1 < f.enabled)),
     (6, decide (f.enabled = 1 ∧ (bound.any fun ch => !limitsFit ch.config.signed f.settings) = true)),
     (8, decide (63 < f.noticeSet))] := by
  rw [Bool.decide_and, Bool.decide_eq_true, ← beq_eq_decide]
  cases bound <;> rfl

/-- Raises read nothing of the inbound queue. -/
theorem State.raiseAll_inbound_set (s : State) (rest : List Request) (rs : List Raise) :
    ({ s with inbound := rest } : State).raiseAll rs = { s.raiseAll rs with inbound := rest } := by
  have halike : ({ s with inbound := rest } : State).alike s := ⟨rfl, rfl, rfl, rfl, rfl⟩
  rw [State.raiseAll_of_alike halike, s.raiseAll_eq]

/-- R102: CHANNEL_SET makes its five checks on the fields laid out, the limits' against a BOUND channel's record, and then
does the work of their settings. -/
theorem exec_channelSet {s : State} {rest : List Request} {tag channel settle enabled kinds : Byte}
    {deadband stale : BitVec 16} {low high hyst : BitVec 32} {q : Request} {set : ChannelSettings}
    (hq : q = ⟨0x22, tag, [channel, settle] ++ be 2 deadband.toNat ++ [enabled] ++ be 4 low.toNat ++ be 4 high.toNat
      ++ be 4 hyst.toNat ++ be 2 stale.toNat ++ [kinds]⟩)
    (hset : set = ⟨settle.toNat, deadband.toNat, decide (enabled = 1), low, high, hyst, stale.toNat, kinds.setWidth 6⟩)
    (h : s.fresh q rest) :
    exec .channelSet s = .next (
      if 127 < channel.toNat then s.answered q rest .badValue [0]
      else if settle = 0 ∨ 15 < settle.toNat then s.answered q rest .badValue [1]
      else if 1 < enabled.toNat then s.answered q rest .badValue [3]
      else if enabled = 1
          ∧ ((s.channel (Fin.ofNat 128 channel.toNat)).any fun ch => !limitsFit ch.config.signed set) = true then
        s.answered q rest .badValue [6]
      else if 63 < kinds.toNat then s.answered q rest .badValue [8]
      else q.doneBy (({ s with inbound := rest } : State).setChannelSettings (Fin.ofNat 128 channel.toNat) set)) := by
  have hasks : s.asks q rest kindChannelSet := by
    subst hq
    exact ⟨h, rfl, rfl⟩
  have hpayload := congrArg Request.payload hq
  rw [exec_asks rfl hasks, runChannelSet_eq, hpayload, readSet_payload, SetFields.settings_ofBytes, ← hset,
    SetFields.failing_eq, SetFields.settings_ofBytes, ← hset]
  simp only [Request.doneBy_check, Request.doneBy_noCheck, Nat.lt_one_iff, bitVec_toNat_eq_zero_iff, byte_toNat_eq_one_iff]
  rfl

theorem Request.doneBy_setChannelSettings_unbound {s : State} {c : ChannelId} (hc : s.channel c = none) (q : Request)
    (rest : List Request) (t : ChannelSettings) :
    q.doneBy (({ s with inbound := rest } : State).setChannelSettings c t) = s.answered q rest .noSuch [] := by
  have hinbound : ({ s with inbound := rest } : State).channel c = none := hc
  rw [State.setChannelSettings, hinbound]
  rfl

theorem Request.doneBy_setChannelSettings_bound {s : State} {c : ChannelId} {ch : Channel} (hc : s.channel c = some ch)
    (q : Request) (rest : List Request) (t : ChannelSettings) :
    q.doneBy (({ s with inbound := rest } : State).setChannelSettings c t)
      = State.answered
          (State.raiseAll { s with channels := s.channels.set c.val (some (ch.afterSet s.timebase t)) } (ch.raisesAfterSet c t))
          q rest .ok [BitVec.ofNat 8 (ch.limitAfterSet t).code] := by
  have hinbound : ({ s with inbound := rest } : State).channel c = some ch := hc
  rw [State.setChannelSettings, hinbound]
  simp only [Channel.applySettings_eq]
  exact congrArg (fun u => State.answer u q (.ok [BitVec.ofNat 8 (ch.limitAfterSet t).code]))
    ((s.setChannel c (some (ch.afterSet s.timebase t))).raiseAll_inbound_set rest (ch.raisesAfterSet c t))

/-- Settles O44: the checks are the statement's, and the limit state, the record and the raise of the settings are those it
writes out, whether a settled value is present or not. -/
theorem channelSet : Obligations.ChannelSet := by
  intro s tag channel settle enabled kinds deadband stale low high hyst rest q hfresh
  refine ⟨fun hbad => ?_, fun c hc => ?_⟩
  · rw [exec_channelSet rfl rfl hfresh, if_pos hbad]
  intro fits set differ moved after raised
  have hnotes : set.notes .limit = kinds.getLsbD 2 := BitVec.getLsbD_setWidth ..
  have hmoved (ch : Channel) : ch.limitAfterSet set = moved ch := by
    unfold Channel.limitAfterSet
    cases hs : ch.settled with
    | none => simp only [moved, hs]
    | some v =>
      simp only [moved, hs, Channel.limitFor, set, decide_eq_true_eq]
      rfl
  have hafter (ch : Channel) : ch.afterSet s.timebase set = after ch := by
    have htimer : ch.staleTimerAfterSet s.timebase set = (after ch).staleTimer := by
      simp only [Channel.staleTimerAfterSet, startTimer, after, set, bitVec_toNat_eq_zero_iff]
      cases ch.data <;> rfl
    rw [Channel.afterSet, hmoved, htimer]
    rfl
  have hraised (ch : Channel) : ch.raisesAfterSet c set = raised ch := by
    cases hs : ch.settled with
    | none => simp only [Channel.raisesAfterSet, raised, hs]
    | some v => simp only [Channel.raisesAfterSet_settled hs, raised, hs, hmoved, hnotes]
  rw [exec_channelSet rfl rfl hfresh, if_neg (ChannelId.not_127_lt hc), ChannelId.ofNat_eq hc]
  cases hch : s.channel c with
  | none =>
    rw [Request.doneBy_setChannelSettings_unbound hch]
    rfl
  | some ch =>
    rw [Request.doneBy_setChannelSettings_bound hch, hmoved, hafter, hraised]
    rfl

end Sys2Proof.Machine
end

section

/-! Settling, limits and latches (06): R97, values and limits read as whole numbers; R126, the limit state's move. -/

namespace Sys2Proof.Machine

/-! ### Values and limits as whole numbers (R97) -/

@[simp] theorem readValue_unsigned (w : Nat) (v : BitVec 32) : readValue false w v = v.toNat := rfl

/-- R97: two's complement at the field's width, told by the field's top bit. -/
theorem readValue_signed {v : BitVec 32} {w : Nat} (hfits : v.toNat < 2 ^ w) :
    readValue true w v
      = if 0 < w ∧ v.getLsbD (w - 1) = true then (v.toNat : Int) - 2 ^ w else v.toNat := by
  have htop : (v.setWidth w).msb = true ↔ 0 < w ∧ v.getLsbD (w - 1) = true := by
    simp only [BitVec.msb_setWidth, Bool.and_eq_true, decide_eq_true_eq]
  have hnat : (v.setWidth w).toNat = v.toNat := by
    rw [BitVec.toNat_setWidth, Nat.mod_eq_of_lt hfits]
  calc readValue true w v
    _ = (v.setWidth w).toInt := rfl
    _ = if (v.setWidth w).msb = true then (v.toNat : Int) - 2 ^ w else v.toNat := by
      rw [BitVec.toInt_eq_msb_cond, hnat]
      push_cast
      rfl
    _ = _ := by simp only [htop]

@[simp] theorem readLimit_unsigned (v : BitVec 32) : readLimit false v = v.toNat := rfl

/-- R97: a signed limit is a field of the full 32 bits. -/
theorem readLimit_signed (v : BitVec 32) : readLimit true v = readValue true 32 v :=
  congrArg BitVec.toInt (BitVec.setWidth_eq v).symm

/-! ### The limit state's move (R126) -/

/-- R126: the band that the hysteresis leaves is NORMAL from every state, since it excludes each of the table's conditions
that leave or keep an alarm. -/
theorem limitMove_eq_normal {low high h v : Int} (hh : 0 ≤ h) (hlow : low + h ≤ v) (hhigh : v ≤ high - h) (l : LimitState) :
    limitMove low high h v l = .normal := by
  have hnotHigh : ¬ high < v := by omega
  have hnotLow : ¬ v < low := by omega
  cases l with
  | normal => rw [limitMove, if_neg hnotHigh, if_neg hnotLow]
  | high => rw [limitMove, if_neg hnotLow, if_pos hhigh]
  | low => rw [limitMove, if_neg hnotHigh, if_pos hlow]

/-- Settles O49: the fields are read by width and signedness, the three rows of the table are the model's own, and the band
inside both hystereses is NORMAL. -/
theorem numbersAndLimits : Obligations.NumbersAndLimits := by
  refine ⟨fun v w _ hfits => ?_, fun low high h v => ?_⟩
  · exact ⟨readValue_unsigned w v, readValue_signed hfits, readLimit_signed v, readLimit_unsigned v⟩
  · exact ⟨rfl, rfl, rfl, fun l hh hlow hhigh => limitMove_eq_normal hh hlow hhigh l⟩

end Sys2Proof.Machine
end

section
/-! Sample queues (07): R139 to R144, the push of a sample; R145 and R146, QUEUE_DRAIN. -/

namespace Sys2Proof.Machine

/-! ### The push of a sample (R139 to R144) -/

section
variable {ch : Channel}

theorem Channel.push_noQueue (hq : ch.config.capacity = 0) (c : ChannelId) (r : Sample) : ch.push c r = (ch, []) := by
  rw [Channel.push, if_pos hq]

theorem Channel.push_room (hroom : ch.queue.records.length < ch.config.capacity) (c : ChannelId) (r : Sample) :
    ch.push c r = ch.pushRoom c r := by
  have hq : ch.config.capacity ≠ 0 := Nat.ne_zero_of_lt hroom
  rw [Channel.push, if_neg hq, if_pos hroom]

theorem Channel.push_full (hq : 0 < ch.config.capacity) (hfull : ch.config.capacity ≤ ch.queue.records.length)
    (c : ChannelId) (r : Sample) : ch.push c r = ch.pushFull c r := by
  rw [Channel.push, if_neg hq.ne', if_neg (Nat.not_lt.2 hfull)]

end

/-- R141: the dropped count goes up by one and stops at 65535. -/
theorem min_succ_maxDropped (n : Nat) : min (n + 1) Config.maxDropped = if n < 65535 then n + 1 else 65535 := by
  have hmax : Config.maxDropped = 65535 := rfl
  split <;> omega

/-- R140, R141, R144: KEEP_OLDEST keeps the records and loses the sample pushed. -/
theorem Channel.pushFull_keepOldest {ch : Channel} (hpolicy : ch.config.policy = .keepOldest) (c : ChannelId) (r : Sample) :
    ch.pushFull c r
      = ({ ch with
            queue := { ch.queue with dropped := min (ch.queue.dropped + 1) Config.maxDropped }
            latches := ch.latches ||| latchOverflowSeen },
          ch.note (.queueOverflow c .keepOldest r.sequence (min (ch.queue.dropped + 1) Config.maxDropped)
            ch.queue.records.length)) := by
  rw [Channel.pushFull, hpolicy]
  rfl

/-- R140, R141, R144: KEEP_NEWEST loses the head and appends the sample pushed. -/
theorem Channel.pushFull_keepNewest {ch : Channel} {old : Sample} {kept : List Sample}
    (hpolicy : ch.config.policy = .keepNewest) (hrecords : ch.queue.records = old :: kept) (c : ChannelId) (r : Sample) :
    ch.pushFull c r
      = ({ ch with
            queue := { ch.queue with
              records := kept ++ [r], dropped := min (ch.queue.dropped + 1) Config.maxDropped }
            latches := ch.latches ||| latchOverflowSeen },
          ch.note (.queueOverflow c .keepNewest old.sequence (min (ch.queue.dropped + 1) Config.maxDropped)
            ch.queue.records.length)) := by
  rw [Channel.pushFull, hpolicy, hrecords]
  rfl

/-- Settles O51: the queue is absent, has room or is full, and a full queue loses its sample by the policy. -/
theorem queuePushed : Obligations.QueuePushed := by
  intro ch c r w fill raised dropped
  have hdropped : min (ch.queue.dropped + 1) Config.maxDropped = dropped := min_succ_maxDropped ch.queue.dropped
  refine ⟨fun hq => ?_, fun hroom => ?_, fun hq hfull hpolicy => ?_, fun old kept hq hfull hpolicy hrecords => ?_⟩
  · exact Channel.push_noQueue hq c r
  · exact Channel.push_room hroom c r
  · rw [Channel.push_full hq hfull, Channel.pushFull_keepOldest hpolicy, hdropped]
    rfl
  · rw [Channel.push_full hq hfull, Channel.pushFull_keepNewest hpolicy hrecords, hdropped]
    rfl

/-! ### QUEUE_DRAIN (R145, R146) -/

/-- R145, R146: what a drain with fields in range does. -/
def State.drainQueue (s : State) (c : ChannelId) (max : Nat) : Reply × State :=
  match s.channel c with
  | none => (.plain .noSuch, s)
  | some ch =>
    if ch.config.capacity = 0 then (.plain .wrongState, s)
    else
      (.ok (ch.queue.drainReport max),
        s.setChannel c (some { ch with queue := ch.queue.drain ch.config.watermark max }))

theorem runQueueDrain_eq (p : List Byte) (s : State) : runQueueDrain p s
    = unlessFailing (readDrain p).failing s (s.drainQueue (Fin.ofNat 128 (readDrain p).channel) (readDrain p).max) := rfl

theorem readDrain_payload (channel max : Byte) : readDrain [channel, max] = ⟨channel.toNat, max.toNat⟩ := by
  simp (disch := omega) only [readDrain, fieldAt_cons_zero, fieldAt_cons_of_pos, Nat.reduceSub]

/-- R145: QUEUE_DRAIN makes its two checks on the fields laid out, and then drains the channel's queue. -/
theorem exec_queueDrain {s : State} {rest : List Request} {tag channel max : Byte} {q : Request}
    (hq : q = ⟨0x28, tag, [channel, max]⟩) (h : s.fresh q rest) :
    exec .queueDrain s = .next (
      if 127 < channel.toNat then s.answered q rest .badValue [0]
      else if max = 0 ∨ 12 < max.toNat then s.answered q rest .badValue [1]
      else q.doneBy (({ s with inbound := rest } : State).drainQueue (Fin.ofNat 128 channel.toNat) max.toNat)) := by
  have hasks : s.asks q rest kindQueueDrain := by
    subst hq
    exact ⟨h, rfl, rfl⟩
  have hpayload := congrArg Request.payload hq
  have hread := readDrain_payload channel max
  rw [exec_asks rfl hasks, runQueueDrain_eq, hpayload, hread]
  simp only [DrainFields.failing, Config.drainLimit, Request.doneBy_check, Request.doneBy_noCheck, Nat.lt_one_iff,
    bitVec_toNat_eq_zero_iff]
  rfl

theorem Request.doneBy_drainQueue_unbound {s : State} {c : ChannelId} (hc : s.channel c = none) (q : Request)
    (rest : List Request) (max : Nat) :
    q.doneBy (({ s with inbound := rest } : State).drainQueue c max) = s.answered q rest .noSuch [] := by
  have hinbound : ({ s with inbound := rest } : State).channel c = none := hc
  rw [State.drainQueue, hinbound]
  rfl

theorem Request.doneBy_drainQueue_bound {s : State} {c : ChannelId} {ch : Channel} (hc : s.channel c = some ch)
    (q : Request) (rest : List Request) (max : Nat) :
    q.doneBy (({ s with inbound := rest } : State).drainQueue c max)
      = if ch.config.capacity = 0 then s.answered q rest .wrongState []
        else State.answered
          { s with channels := s.channels.set c.val (some { ch with queue := ch.queue.drain ch.config.watermark max }) }
          q rest .ok (ch.queue.drainReport max) := by
  have hinbound : ({ s with inbound := rest } : State).channel c = some ch := hc
  rw [State.drainQueue, hinbound]
  exact apply_ite q.doneBy _ _ _

/-- Section 10.8: the flags byte is the number whose top five bits are the flags. -/
theorem Quality.code_eq (f : Quality) : f.code
    = BitVec.ofNat 8 (128 * f.parity.toNat + 64 * f.checkFail.toNat + 32 * f.coasted.toNat + 16 * f.idPredicted.toNat
      + 8 * f.inverted.toNat) := by
  obtain ⟨parity, checkFail, coasted, idPredicted, inverted⟩ := f
  revert parity checkFail coasted idPredicted inverted
  decide

/-- Section 10.8: the bytes of a sample record, the flags written out bit by bit. -/
theorem Sample.bytes_eq (r : Sample) : r.bytes
    = be 4 r.sequence.toNat ++ be 4 r.value.toNat
      ++ [BitVec.ofNat 8 (128 * r.flags.parity.toNat + 64 * r.flags.checkFail.toNat + 32 * r.flags.coasted.toNat
          + 16 * r.flags.idPredicted.toNat + 8 * r.flags.inverted.toNat), r.frameId]
      ++ be 4 r.majorCount.toNat ++ be 6 r.stamp.toNat := by
  rw [Sample.bytes, Quality.code_eq]

/-- Settles O52: the channel and max are checked in order, and the drain of an UNBOUND channel, of one without a queue and of
one with a queue are the statement's, the records laid out as it lays them out. -/
theorem queueDrained : Obligations.QueueDrained := by
  intro s tag channel max rest q hfresh
  refine ⟨fun hbad => ?_, fun c hc => ?_⟩
  · rw [exec_queueDrain rfl hfresh, if_pos hbad]
  · rw [exec_queueDrain rfl hfresh, if_neg (ChannelId.not_127_lt hc), ChannelId.ofNat_eq hc]
    cases hch : s.channel c with
    | none => rw [Request.doneBy_drainQueue_unbound hch]
    | some ch =>
      rw [Request.doneBy_drainQueue_bound hch, SampleQueue.drainReport, funext Sample.bytes_eq]
      rfl

end Sys2Proof.Machine
end

section
/-! Rosters (08): R156, ROSTER_READ with the entries of R152; R157 and R158, ROSTER_START and ROSTER_STOP. -/

namespace Sys2Proof.Machine

/-! ### Requests on one roster -/

/-- A request whose payload is one number refuses a number above the greatest and else does its work on that number. -/
theorem exec_asks_number {c : Instr} {kind : Byte} {max : Nat} {work : Nat → State → Reply × State} {s : State} {q : Request}
    {rest : List Request} {number : Byte}
    (hrow : exec c s = .next (s.executeKind kind fun p t => unlessFailing (fieldZeroFailing p max) t (work (fieldAt p 0 1) t)))
    (hpayload : q.payload = [number]) (h : s.asks q rest kind) :
    exec c s = .next (
      if max < number.toNat then s.answered q rest .badValue [0]
      else q.doneBy (work number.toNat { s with inbound := rest })) := by
  have hcheck : fieldZeroFailing [number] max = firstFailing [(0, decide (max < number.toNat))] := by
    simp only [fieldZeroFailing, fieldAt_cons_zero, firstFailing, decide_eq_true_eq]
  rw [exec_asks hrow h, hpayload, fieldAt_cons_zero, hcheck, Request.doneBy_check, Request.doneBy_noCheck]
  rfl

theorem RosterId.ofNat_eq {n : Nat} {r : RosterId} (h : n = r.val) : Fin.ofNat 4 n = r := by
  rw [h, Fin.ofNat_val_eq_self]

theorem RosterId.not_3_lt {n : Nat} {r : RosterId} (h : n = r.val) : ¬ 3 < n := by
  have hr := r.isLt
  omega

/-! ### ROSTER_READ (R152, R153, R156) -/

/-- R156: a report leaves the part as it was. -/
theorem exec_rosterRead {s : State} {rest : List Request} {tag roster : Byte} {q : Request}
    (hq : q = ⟨0x31, tag, [roster]⟩) (h : s.fresh q rest) :
    exec .rosterRead s = .next (
      if 3 < roster.toNat then s.answered q rest .badValue [0]
      else s.answered q rest .ok (s.rosterReport (Fin.ofNat 4 roster.toNat))) := by
  have hasks : s.asks q rest kindRosterRead := by
    subst hq
    exact ⟨h, rfl, rfl⟩
  exact exec_asks_number (work := fun n t => (.ok (t.rosterReport (Fin.ofNat 4 n)), t)) rfl (congrArg Request.payload hq) hasks

/-- R152: the entry of an UNBOUND channel is its number, UNBOUND in the state bits, and zeros. -/
theorem RosterEntry.bytes_unbound (c : ChannelId) :
    (RosterEntry.unbound c).bytes = BitVec.ofNat 8 c.val :: 0b11000000 :: List.replicate 11 0 := by
  have hstate : ReportedState.unbound.code * 64 + LimitState.normal.code * 16 + false.toNat * 8 = 0b11000000 := rfl
  have hzeros : be 4 (0 : BitVec 32).toNat ++ [Quality.clear.code] ++ be 2 (0 : BitVec 16).toNat ++ be 4 (0 : BitVec 32).toNat
      = List.replicate 11 0 := by decide
  simp only [RosterEntry.unbound, RosterEntry.bytes, hstate, ← hzeros, byte, List.append_assoc, List.cons_append,
    List.nil_append]
  rfl

/-- R152, section 10.8: the entry of a BOUND channel, its last sample's fields and its settled value 0 where absent. -/
theorem RosterEntry.bytes_ofChannel (c : ChannelId) (ch : Channel) :
    (RosterEntry.ofChannel c ch).bytes
      = [BitVec.ofNat 8 c.val,
          BitVec.ofNat 8 (ch.data.reported.code * 64 + ch.limit.code * 16 + if ch.settled.isSome then 8 else 0)]
        ++ (match ch.data.last with
          | none => List.replicate 7 0
          | some x => be 4 x.value.toNat ++ [x.flags.code] ++ be 2 (x.sequence.toNat % 65536))
        ++ be 4 (match ch.settled with
          | none => 0
          | some x => x.value.toNat) := by
  rw [RosterEntry.ofChannel, RosterEntry.bytes]
  have hsettled : ch.settled.isSome.toNat * 8 = if ch.settled.isSome then 8 else 0 := by
    cases ch.settled with
    | none => rfl
    | some x => rfl
  have hlast : be 4 ((ch.data.last.map Sample.value).getD 0).toNat
      ++ [((ch.data.last.map Sample.flags).getD .clear).code]
      ++ be 2 ((ch.data.last.map fun x : Sample => x.sequence.setWidth 16).getD 0).toNat
      = match ch.data.last with
        | none => List.replicate 7 0
        | some x => be 4 x.value.toNat ++ [x.flags.code] ++ be 2 (x.sequence.toNat % 65536) := by
    cases ch.data.last with
    | none => rfl
    | some x => simp only [Option.map_some, Option.getD_some, BitVec.toNat_setWidth, Nat.reducePow]
  have hvalue : ((ch.settled.map Settled.value).getD 0).toNat = match ch.settled with
      | none => 0
      | some x => x.value.toNat := by
    cases ch.settled with
    | none => rfl
    | some x => rfl
  rw [← hlast, ← hvalue, ← hsettled]
  simp only [byte, List.append_assoc, List.cons_append, List.nil_append]

/-- R156, section 10.8: the bytes of a ROSTER_READ reply, the entries in list order. -/
theorem State.rosterReport_eq (s : State) (r : RosterId) :
    s.rosterReport r
      = [BitVec.ofNat 8 r.val, BitVec.ofNat 8 (s.roster r).mode.code, BitVec.ofNat 8 (s.roster r).stream.index,
          BitVec.ofNat 8 (s.roster r).period, BitVec.ofNat 8 (s.roster r).countdown,
          BitVec.ofNat 8 (s.roster r).list.length]
        ++ (s.roster r).list.flatMap fun c => (s.rosterEntry c).bytes := by
  rw [State.rosterReport, State.snapshot, List.flatMap_map]
  rfl

/-! ### ROSTER_START (R157) -/

theorem runRosterStart_eq (p : List Byte) (s : State) : runRosterStart p s
    = unlessFailing (readStart p).failing s
      (.ok [], s.setRoster (Fin.ofNat 4 (readStart p).roster)
        ((s.roster (Fin.ofNat 4 (readStart p).roster)).start (.ofField (readStart p).stream) (readStart p).period)) := rfl

theorem readStart_payload (roster stream period : Byte) :
    readStart [roster, stream, period] = ⟨roster.toNat, stream.toNat, period.toNat⟩ := by
  simp (disch := omega) only [readStart, fieldAt_cons_zero, fieldAt_cons_of_pos, Nat.reduceSub]

/-- R157: only a period of 0 is out of range, since the field is a byte. -/
theorem byte_lt_one_or_255_lt_iff (b : Byte) : (b.toNat < 1 ∨ 255 < b.toNat) ↔ b = 0 := by
  have hbyte : ¬ 255 < b.toNat := Nat.not_lt.2 (Nat.le_of_lt_succ b.isLt)
  rw [or_iff_left hbyte, Nat.lt_one_iff, bitVec_toNat_eq_zero_iff]

/-- R157: ROSTER_START makes its three checks on the fields laid out, and then starts the roster. -/
theorem exec_rosterStart {s : State} {rest : List Request} {tag roster stream period : Byte} {q : Request}
    (hq : q = ⟨0x32, tag, [roster, stream, period]⟩) (h : s.fresh q rest) :
    exec .rosterStart s = .next (
      if 3 < roster.toNat then s.answered q rest .badValue [0]
      else if 1 < stream.toNat then s.answered q rest .badValue [1]
      else if period = 0 then s.answered q rest .badValue [2]
      else State.answered
        (s.setRoster (Fin.ofNat 4 roster.toNat)
          ((s.roster (Fin.ofNat 4 roster.toNat)).start (if stream = 0 then .s0 else .s1) period.toNat)) q rest .ok []) := by
  have hasks : s.asks q rest kindRosterStart := by
    subst hq
    exact ⟨h, rfl, rfl⟩
  have hpayload := congrArg Request.payload hq
  rw [exec_asks rfl hasks, runRosterStart_eq, hpayload, readStart_payload]
  simp only [StartFields.failing, StreamId.ofField, Request.doneBy_check, Request.doneBy_noCheck, byte_lt_one_or_255_lt_iff,
    bitVec_toNat_eq_zero_iff]
  rfl

/-! ### ROSTER_STOP (R158) -/

/-- R158: the reply tells the mode before the stop. -/
theorem exec_rosterStop {s : State} {rest : List Request} {tag roster : Byte} {q : Request}
    (hq : q = ⟨0x33, tag, [roster]⟩) (h : s.fresh q rest) :
    exec .rosterStop s = .next (
      if 3 < roster.toNat then s.answered q rest .badValue [0]
      else State.answered
        (s.setRoster (Fin.ofNat 4 roster.toNat) (s.roster (Fin.ofNat 4 roster.toNat)).stop) q rest .ok
        [BitVec.ofNat 8 (s.roster (Fin.ofNat 4 roster.toNat)).mode.code]) := by
  have hasks : s.asks q rest kindRosterStop := by
    subst hq
    exact ⟨h, rfl, rfl⟩
  exact exec_asks_number (work := fun n t =>
    (.ok (byte (t.roster (Fin.ofNat 4 n)).mode.code), t.setRoster (Fin.ofNat 4 n) (t.roster (Fin.ofNat 4 n)).stop)) rfl
    (congrArg Request.payload hq) hasks

/-- Settles O55: each request checks its fields in order, and the report's entries and the started and the stopped record are
those the statement writes out. -/
theorem rosterRequests : Obligations.RosterRequests := by
  refine ⟨fun s tag roster rest hfresh => ⟨fun hbad => ?_, fun r hr => ?_⟩, fun s tag roster stream period rest =>
    ⟨fun hfresh => ⟨fun hbad => ?_, fun r hr => ?_⟩, fun hfresh => ⟨fun hbad => ?_, fun r hr => ?_⟩⟩⟩
  · rw [exec_rosterRead rfl hfresh, if_pos hbad]
  · intro v entry
    have hentry (c : ChannelId) : (s.rosterEntry c).bytes = entry c := by
      cases hc : s.channel c with
      | none =>
        simp only [State.rosterEntry, entry, hc]
        exact RosterEntry.bytes_unbound c
      | some ch =>
        simp only [State.rosterEntry, entry, hc]
        exact RosterEntry.bytes_ofChannel c ch
    rw [exec_rosterRead rfl hfresh, if_neg (RosterId.not_3_lt hr), RosterId.ofNat_eq hr, State.rosterReport_eq, funext hentry]
  · rw [exec_rosterStart rfl hfresh, if_pos hbad]
  · rw [exec_rosterStart rfl hfresh, if_neg (RosterId.not_3_lt hr), RosterId.ofNat_eq hr]
    rfl
  · rw [exec_rosterStop rfl hfresh, if_pos hbad]
  · rw [exec_rosterStop rfl hfresh, if_neg (RosterId.not_3_lt hr), RosterId.ofNat_eq hr]
    cases (s.roster r).mode with
    | idle => rfl
    | periodic => rfl

end Sys2Proof.Machine
end

section
/-! The Notice Unit (09): R173, NOTICE_MASK; R177, NOTICE_GRANT. -/

namespace Sys2Proof.Machine

/-! ### NOTICE_MASK (R173) -/

/-- Section 10.8: a notice kind's bit in the mask is one of the nine. -/
theorem NoticeKind.index_lt_nine (k : NoticeKind) : k.index < 9 := by
  cases k <;> decide

/-- R173: the nine bits stored enable the kinds that the mask laid out enables. -/
theorem NoticeUnit.setMask_setWidth (n : NoticeUnit) (mask : BitVec 16) :
    n.setMask (mask.setWidth 9)
      = { n with mask := mask.setWidth 9, queue := n.queue.filter fun m => mask.getLsbD m.content.kind.index } := by
  have hbit (k : NoticeKind) : (mask.setWidth 9).getLsbD k.index = mask.getLsbD k.index := by
    rw [BitVec.getLsbD_setWidth, decide_eq_true k.index_lt_nine, Bool.true_and]
  simp only [NoticeUnit.setMask, hbit]

/-- R173: NOTICE_MASK's one check and its work, on the mask laid out. -/
theorem runNoticeMask_be (mask : BitVec 16) (s : State) :
    runNoticeMask (be 2 mask.toNat) s
      = unlessFailing (firstFailing [(0, decide (511 < mask.toNat))]) s
        (.ok (be 2 s.notices.mask.toNat
            ++ byte (s.notices.queue.length - (s.notices.setMask (mask.setWidth 9)).queue.length)
            ++ byte (s.notices.setMask (mask.setWidth 9)).queue.length),
          { s with notices := s.notices.setMask (mask.setWidth 9) }) := by
  have hfield : fieldAt (be 2 mask.toNat) 0 2 = mask.toNat := fieldAt_be mask.isLt
  have hstored : BitVec.ofNat 9 mask.toNat = mask.setWidth 9 := rfl
  rw [runNoticeMask, hfield, hstored]
  by_cases hbad : 511 < mask.toNat
  · simp only [firstFailing, hbad, decide_true, if_true, unlessFailing]
  · simp only [firstFailing, hbad, decide_false, Bool.false_eq_true, if_false, unlessFailing]

/-- R173: NOTICE_MASK refuses a mask above nine bits, and else stores it and tells what it removed. -/
theorem exec_noticeMask {s : State} {rest : List Request} {tag : Byte} {mask : BitVec 16} {q : Request}
    (hq : q = ⟨0x38, tag, be 2 mask.toNat⟩) (h : s.fresh q rest) :
    exec .noticeMask s = .next (
      if 511 < mask.toNat then s.answered q rest .badValue [0]
      else State.answered { s with notices := s.notices.setMask (mask.setWidth 9) } q rest .ok
        (be 2 s.notices.mask.toNat
          ++ byte (s.notices.queue.length - (s.notices.setMask (mask.setWidth 9)).queue.length)
          ++ byte (s.notices.setMask (mask.setWidth 9)).queue.length)) := by
  have hasks : s.asks q rest kindNoticeMask := by
    subst hq
    exact ⟨h, rfl, rfl⟩
  have hpayload := congrArg Request.payload hq
  rw [exec_asks rfl hasks, hpayload, runNoticeMask_be, Request.doneBy_check, Request.doneBy_noCheck]
  rfl

/-! ### NOTICE_GRANT (R177) -/

/-- R177: the credits stop at 255. -/
theorem NoticeUnit.grant_eq (n : NoticeUnit) (k : Nat) :
    n.grant k = { n with credits := if 255 < n.credits + k then 255 else n.credits + k } := by
  have hmin : min (n.credits + k) Config.maxCredits = if 255 < n.credits + k then 255 else n.credits + k := by
    have hmax : Config.maxCredits = 255 := rfl
    split <;> omega
  rw [NoticeUnit.grant, hmin]

/-- R177: NOTICE_GRANT has no check; it raises the credits and tells the unit's counts. -/
theorem exec_noticeGrant {s : State} {rest : List Request} {tag grant : Byte} {q : Request}
    (hq : q = ⟨0x39, tag, [grant]⟩) (h : s.fresh q rest) :
    exec .noticeGrant s = .next (State.answered { s with notices := s.notices.grant grant.toNat } q rest .ok
      (byte (s.notices.grant grant.toNat).credits ++ byte s.notices.queue.length ++ be 2 s.notices.dropped)) := by
  have hasks : s.asks q rest kindNoticeGrant := by
    subst hq
    exact ⟨h, rfl, rfl⟩
  have hpayload := congrArg Request.payload hq
  rw [exec_asks rfl hasks, hpayload, runNoticeGrant, fieldAt_cons_zero]
  rfl

/-- Settles O59: the mask is checked before it is stored, the notices it keeps are those the statement filters, and the
credits granted stop at the greatest count. -/
theorem noticeRequests : Obligations.NoticeRequests := by
  intro s tag grant mask rest
  refine ⟨fun hfresh => ?_, fun hfresh => ?_⟩
  · rw [exec_noticeMask rfl hfresh, NoticeUnit.setMask_setWidth]
    simp only [byte, List.append_assoc, List.cons_append, List.nil_append]
  · rw [exec_noticeGrant rfl hfresh, NoticeUnit.grant_eq]
    rfl

end Sys2Proof.Machine
end

section
/-! The host link (10): R192, the checks of kind and of payload length; R198, R201 and R202, the Timebase, TIME_GET and PING. -/

namespace Sys2Proof.Machine

/-! ### The table of payload lengths (R192, section 10.8) -/

theorem kindKnown_eq_false_iff (kind : Byte) :
    kindKnown kind = false ↔ kind.toNat ∉ requestLengths.map fun r => r.1.toNat := by
  simp only [kindKnown, List.any_eq_false, beq_iff_eq, List.mem_map, not_exists, not_and, BitVec.toNat_inj]

/-- Section 10.8 has one row for each kind. -/
theorem requestLengths_row : ∀ row ∈ requestLengths, (requestLengths.filter fun r => r.1 == row.1) = [row] := by decide

/-- R192: the lengths allowed are those of the kind's row. -/
theorem lengthAllowed_eq_false_iff {row : Byte × Nat × Nat} (hrow : row ∈ requestLengths) (n : Nat) :
    lengthAllowed row.1 n = false ↔ ¬ (row.2.1 ≤ n ∧ n ≤ row.2.2) := by
  rw [lengthAllowed_of_row (requestLengths_row row hrow), decide_eq_false_iff_not]

/-- The executor has a run for every request of the table but RESET. -/
theorem requestRuns_known {row : Byte × Nat × Nat} (hrow : row ∈ requestLengths) (hreset : row.1 ≠ kindReset) :
    ∃ r ∈ requestRuns, r.1 = row.1 := by
  have hkinds : requestRuns.map Prod.fst = (requestLengths.map Prod.fst).erase kindReset := rfl
  have hmem : row.1 ∈ requestRuns.map Prod.fst := by
    rw [hkinds]
    exact (List.mem_erase_of_ne hreset).2 (List.mem_map_of_mem hrow)
  exact List.mem_map.1 hmem

/-! ### Refusals by the link-level checks (R192) -/

theorem runChecked_badLength {q : Request} (h : lengthAllowed q.kind q.payload.length = false)
    (run : List Byte → State → Reply × State) (s : State) : runChecked run q s = s.answer q (badLength q) := by
  rw [runChecked, h, if_neg Bool.false_ne_true]

theorem resetRefusal_badLength {q : Request} (h : lengthAllowed q.kind q.payload.length = false) :
    resetRefusal q = some (badLength q) := by
  rw [resetRefusal, h, if_neg Bool.false_ne_true]

/-- R192: a request of the table whose length its row does not allow is answered BAD_LENGTH, whatever its kind. -/
theorem actAny_badLength {q : Request} {row : Byte × Nat × Nat} (hrow : row ∈ requestLengths) (hkind : q.kind = row.1)
    (hlength : lengthAllowed q.kind q.payload.length = false) (s : State) : actAny q s = s.answer q (badLength q) := by
  unfold actAny
  by_cases hreset : q.kind = kindReset
  · rw [if_pos hreset, actResetChannels, resetRefusal_badLength hlength]
  · obtain ⟨r, hr, hrkind⟩ := requestRuns_known hrow (hkind ▸ hreset)
    have hfound : (requestRuns.find? fun r => r.1 == q.kind).isSome := by
      rw [List.find?_isSome]
      exact ⟨r, hr, beq_iff_eq.2 (hrkind.trans hkind.symm)⟩
    obtain ⟨run, hrun⟩ := Option.isSome_iff_exists.1 hfound
    rw [if_neg hreset, hrun]
    exact runChecked_badLength hlength run.2 s

/-- R189, R190: a row that takes a new request does what a turn of the executor does with it; for the RESETs of scope FULL and
STREAMS, those that are refused. -/
theorem exec_takesFresh {c : Instr} {s : State} {q : Request} {rest : List Request} (h : s.fresh q rest)
    (hc : c.isRequest = true) (htaken : takenBy c q = true)
    (hrefused : c = .resetFull ∨ c = .resetStreams → (resetRefusal q).isSome = true) :
    exec c s = .next (actAny q { s with inbound := rest }) := by
  rw [exec_takesHead h.1 hc htaken fun hrow _ => hrefused hrow, State.takeAny, State.takeRequest_fresh h rfl]

/-- Settles O14: every row does what a turn of the executor does with a request these checks refuse, and the lengths of the
statement are those of the model's table. -/
theorem linkChecksRefuse : Obligations.LinkChecksRefuse := by
  refine ⟨fun s q rest hfresh hkind => ?_, fun _ => rfl, fun c s q rest hc htaken _ hfresh hlength => ?_⟩
  · have hunknown : kindKnown q.kind = false := (kindKnown_eq_false_iff q.kind).2 hkind
    have htaken : takenBy .badKind q = true := by rw [takenBy, hunknown, Bool.not_false]
    rw [exec_takesFresh hfresh rfl htaken (by rintro (h | h) <;> cases h), actAny_unknown hunknown]
    rfl
  · obtain ⟨_, hmem, hkind, hbad⟩ := hlength
    obtain ⟨row, hrow, rfl⟩ := List.mem_map.1 (show _ ∈ requestLengths.map fun r => (r.1.toNat, r.2) from hmem)
    have hkind : q.kind = row.1 := BitVec.eq_of_toNat_eq hkind
    have hlength : lengthAllowed q.kind q.payload.length = false := hkind ▸ (lengthAllowed_eq_false_iff hrow _).2 hbad
    rw [exec_takesFresh hfresh hc htaken fun _ => by rw [resetRefusal_badLength hlength]; rfl,
      actAny_badLength hrow hkind hlength]
    rfl

/-! ### What a request leaves of the Timebase (R198) -/

/-- No change that the stop of a stream makes sets the Timebase. -/
theorem streamChanges_timebase (i : StreamId) (now : Time) : StreamChanges i fun s => s.timebase = now where
  syn _ _ h := h
  trk _ _ h := h
  raise s rs h := (s.raiseAll_timebase rs).trans h
  stale s why h := by rwa [State.staleStream, State.raiseAll_timebase, State.mapChannels_timebase]
  commit s h _ := by rwa [State.applyCommit, State.mapChannels_timebase]

section
variable {now : Time} {s : State} (p : List Byte) (h : s.timebase = now)
include h

theorem runStreamArm_keeps_timebase : (runStreamArm p s).2.timebase = now := by
  unfold runStreamArm
  split
  · exact h
  · split_ifs
    · exact h
    · exact (State.raiseAll_timebase _ _).trans h
    · exact h

theorem runStreamDisarm_keeps_timebase : (runStreamDisarm p s).2.timebase = now := by
  unfold runStreamDisarm
  split
  · exact h
  · dsimp only
    split_ifs
    · exact h
    · exact (streamChanges_timebase _ now).disarm h _

theorem stageEdit_keeps_timebase (i : StreamId) (edit : Edit) : (s.stageEdit i edit).2.timebase = now := by
  unfold State.stageEdit
  split_ifs <;> exact h

theorem commit_keeps_timebase (i : StreamId) : (s.commit i).2.timebase = now := by
  unfold State.commit
  split_ifs
  · exact h
  · exact h
  · split
    · exact h
    · exact h
  · split
    · exact h
    · exact (State.mapChannels_timebase _ _).trans h

theorem runChannelSet_keeps_timebase : (runChannelSet p s).2.timebase = now := by
  unfold runChannelSet
  split
  · exact h
  · split
    · exact h
    · exact (State.raiseAll_timebase _ _).trans h

end

/-- No request but the FULL reset sets the Timebase: the works that store a record leave it, as do raises, a commit and a
stream's stop. -/
theorem requestKeeps_timebase (now : Time) : RequestKeeps fun s => s.timebase = now where
  link _ _ _ _ _ _ _ h := h
  draws _ _ h := h
  resetChannels s h := (s.mapChannels_timebase _).trans h
  profileLoad p s _ h := by unfold runProfileLoad; (repeat' split) <;> exact h
  profileDrop p s _ h := by unfold runProfileDrop; (repeat' split) <;> exact h
  streamArm p _ _ h := runStreamArm_keeps_timebase p h
  streamDisarm p _ _ h := runStreamDisarm_keeps_timebase p h
  mapAdd p s _ h := by unfold runMapAdd; split; exacts [h, stageEdit_keeps_timebase h _ _]
  mapRemove p s _ h := by unfold runMapRemove; split; exacts [h, stageEdit_keeps_timebase h _ _]
  mapCommit p s _ h := by unfold runMapCommit; split; exacts [h, commit_keeps_timebase h _]
  mapDiscard p s _ h := by unfold runMapDiscard; split <;> exact h
  channelBind p s _ h := by unfold runChannelBind; (repeat' split) <;> exact h
  channelUnbind p s _ h := by unfold runChannelUnbind; (repeat' split) <;> exact h
  channelSet p _ _ h := runChannelSet_keeps_timebase p h
  channelClear p s _ h := by unfold runChannelClear; (repeat' split) <;> exact h
  queueDrain p s _ h := by unfold runQueueDrain; (repeat' split) <;> exact h
  rosterSet p s _ _ h := by unfold runRosterSet; split <;> exact h
  rosterStart p s _ h := by unfold runRosterStart; split <;> exact h
  rosterStop p s _ h := by unfold runRosterStop; split <;> exact h
  noticeMask p s _ h := by unfold runNoticeMask; split <;> exact h
  noticeGrant _ _ _ h := h

/-- R189: a request row is a step of the executor on the requests that the row takes. -/
theorem exec_eq_takeRequest {c : Instr} (hc : c.isRequest = true) (s : State) :
    ∃ act, exec c s = .next (s.takeRequest (takenBy c) act) := by
  have kind (kind : Byte) (run : List Byte → State → Reply × State) {wanted : Request → Bool}
      (hwanted : wanted = fun q => some kind == some q.kind) :
      ∃ act, (.next (s.executeKind kind run) : Host.Outcome State Fault Refusal) = .next (s.takeRequest wanted act) := by
    have hflip : wanted = fun q => q.kind == kind := by
      rw [hwanted]
      funext q
      rw [Option.some_beq_some, BEq.comm]
    exact ⟨runChecked run, by rw [hflip, State.executeKind]⟩
  cases c
  case resetFull | resetStreams | resetChannels | channelClearLatches | channelClearValue | channelClearQueue | badKind =>
    exact ⟨_, rfl⟩
  case powerOnReset | bitArrival | idleExpiry | windowExpiry | staleTimerExpiry | frameReceived | gapTimerExpiry | sendReady
      | sendReply | noticeSend | frameSent | byteArrival | timebaseTick =>
    cases hc
  all_goals exact kind _ _ rfl

/-- A property that requests and a STREAMS reset keep is kept by every request row but that of the FULL reset. -/
theorem RequestKeeps.exec {P : State → Prop} (k : RequestKeeps P) (resetStreams : ∀ s, P s → P s.resetStreams) {c : Instr}
    {s t : State} (hc : c.isRequest = true) (hfull : c ≠ .resetFull) (h : P s) (he : exec c s = .next t) : P t := by
  by_cases hstreams : c = .resetStreams
  · subst hstreams
    cases he
    exact k.takeRequest (fun q s _ hs => k.actReset (fun q s hs => k.answer (resetStreams s hs) q _) hs) h
  · obtain ⟨act, hact⟩ := exec_eq_takeRequest hc s
    rcases s.takeRequest_cases (takenBy c) act with hsame | ⟨q, rest, hhead, htaken, -⟩
    · cases he.symm.trans (hact.trans (congrArg _ hsame))
      exact h
    · cases he.symm.trans (exec_takesHead hhead hc htaken fun hreset => (hreset.elim hfull hstreams).elim)
      exact k.takeAny h

/-- R198: of the requests only the FULL reset sets the Timebase. -/
theorem exec_request_timebase {c : Instr} {s t : State} (hc : c.isRequest = true) (hfull : c ≠ .resetFull)
    (he : exec c s = .next t) : t.timebase = s.timebase :=
  (requestKeeps_timebase s.timebase).exec
    (fun _ => StreamChanges.resetStreams (fun i => streamChanges_timebase i s.timebase)
      fun u h => u.sendInside_timebase.trans h) hc hfull rfl he

/-! ### TIMEBASE_TICK, TIME_GET and PING (R198, R201, R202) -/

/-- R198: the Timebase wraps from 2^48 - 1 to 0. -/
theorem exec_timebaseTick (s : State) : exec .timebaseTick s = .next { s with timebase := s.timebase + 1 } := rfl

theorem exec_timeGet {s : State} {tag : Byte} {rest : List Request} (h : s.fresh ⟨0x02, tag, []⟩ rest) :
    exec .timeGet s = .next (s.answered ⟨0x02, tag, []⟩ rest .ok (be 6 s.timebase.toNat)) :=
  exec_asks (run := runTimeGet) rfl ⟨h, rfl, rfl⟩

theorem exec_ping {s : State} {tag : Byte} {rest : List Request} (h : s.fresh ⟨0x01, tag, []⟩ rest) :
    exec .ping s = .next (s.answered ⟨0x01, tag, []⟩ rest .ok pingPayload) :=
  exec_asks (run := runPing) rfl ⟨h, rfl, rfl⟩

/-- Settles O7: the tick adds one to a 48-bit word, and of the request rows the FULL reset alone sets that word. -/
theorem pingAndTime : Obligations.PingAndTime :=
  ⟨⟨fun s => ⟨_, exec_timebaseTick s, rfl, BitVec.toNat_add s.timebase 1⟩, fun _ _ _ h => exec_timeGet h,
    fun _ _ _ hc hfull he => exec_request_timebase hc hfull he⟩, fun _ _ _ h => exec_ping h⟩

end Sys2Proof.Machine
end

section
/-! What commands do to the part, change by change: a property kept by each change a request can make, with the checks that
stand before it, is kept by requests (`RequestChanges.runsKeep`); one also kept by a stream's own work, by every command. -/

namespace Sys2Proof.Machine

/-! ### The changes of requests (R189, R191) -/

/-- The changes requests make to the profiles, the map, the channels, the rosters and the Notice Unit, each with the checks that
let it happen. -/
structure TableChanges (P : State → Prop) : Prop where
  draws : ∀ s n, P s → P { s with draws := n }
  raise : ∀ s rs, P s → P (s.raiseAll rs)
  load : ∀ s k p, P s → p.Legal → s.slotInUse k = false → P (s.setProfile k (some p))
  drop : ∀ s k, P s → s.slotInUse k = false → P (s.setProfile k none)
  stage : ∀ s i edit, P s → (s.stage.get i).pending = false → (s.stage.get i).edits.length < 64 →
    (∀ e, edit = .add e → e.stream = i) →
    P (s.setStage i { s.stage.get i with edits := (s.stage.get i).edits ++ [edit] })
  discard : ∀ s i, P s → P (s.setStage i .reset)
  accept : ∀ s i, P s → s.validate i = none → s.extractionActive i = true → P (s.makePending i)
  commit : ∀ s i, P s → (s.stage.get i).pending = true ∨ s.validate i = none → P (s.applyCommit i)
  bind : ∀ s c config, P s → s.channel c = none → (Channel.fresh config).Legal → config.capacity ≤ s.poolFree →
    P { s.setChannel c (some (.fresh config)) with poolFree := s.poolFree - config.capacity }
  unbind : ∀ s c ch, P s → s.channel c = some ch → s.committedClaims c = 0 → s.stagedClaims c = 0 →
    P { s.setChannel c none with poolFree := s.poolFree + ch.config.capacity }
  channel : ∀ s c ch ch', P s → s.channel c = some ch → ch'.config = ch.config → (ch.Legal → ch'.Legal) →
    P (s.setChannel c (some ch'))
  channels : ∀ s f, P s → (∀ c ch, (f c ch).config = ch.config) → (∀ c ch, ch.Legal → (f c ch).Legal) → P (s.mapChannels f)
  rosterList : ∀ s r list, P s → list.length ≤ 16 → list.Nodup → P (s.setRoster r { s.roster r with list := list })
  rosterStart : ∀ s r i period, P s → 1 ≤ period → period ≤ 255 → P (s.setRoster r ((s.roster r).start i period))
  rosterStop : ∀ s r, P s → P (s.setRoster r (s.roster r).stop)
  mask : ∀ s m, P s → P { s with notices := s.notices.setMask m }
  grant : ∀ s n, P s → P { s with notices := s.notices.grant n }

/-- The same with the two requests that change a stream's own records. -/
structure RequestChanges (P : State → Prop) : Prop extends TableChanges P where
  arm : ∀ s i f, P s → f.failing = none → f.window ≤ 65535 → s.armNamesEmpty f.set = false →
    (s.syn.get i).mode = .off ∨ (s.syn.get i).mode = .stopped →
    P ((s.setSyn i ((s.syn.get i).arm f s.timebase)).raiseSync i .armed)
  disarm : ∀ s i, P s → (s.syn.get i).mode ≠ .off → P (s.disarm i .disarmed)

/-- R98, R99: an accepted CHANNEL_BIND makes a legal record. -/
theorem BindFields.fresh_legal {f : BindFields} (h : f.failing = none) : (Channel.fresh f.config).Legal := by
  obtain ⟨-, -, hF1, hF4, -, hq, -, hw⟩ := BindFields.failing_none h
  exact
    { fragments := ⟨hF1, hF4⟩
      capacity := hq
      watermark := hw
      settleCount := ⟨Nat.le_refl 1, show 1 ≤ 15 by decide⟩
      deadband := Nat.zero_le _
      staleWindow := Nat.zero_le _
      limits := fun hon => by cases hon
      agree := Nat.zero_le _
      noCandidate := fun _ => rfl
      noSettled := fun _ => rfl
      noLimits := fun _ => rfl
      sequence := fun _ hr => by cases hr
      timer := fun ht => absurd rfl ht
      fill := Nat.zero_le _
      dropped := Nat.zero_le _
      armed := fun _ hpos => hpos }

/-- R154: the channels of an accepted list are distinct. -/
theorem rosterSet_channels_nodup {p : List Byte} (h : rosterSetFailing p = none) :
    (p.tail.map fun b => Fin.ofNat 128 b.toNat).Nodup := by
  unfold rosterSetFailing at h
  split at h
  · cases h
  · obtain ⟨hrange, hnodup⟩ := rosterListFailing_none h
    have hinjective : ∀ a ∈ p.tail, ∀ b ∈ p.tail, Fin.ofNat 128 a.toNat = Fin.ofNat 128 b.toNat → a = b := by
      intro a ha b hb hab
      have hmod : a.toNat % 128 = b.toNat % 128 := congrArg Fin.val hab
      have ha127 := (hrange a.toNat (List.mem_map_of_mem ha)).1
      have hb127 := (hrange b.toNat (List.mem_map_of_mem hb)).1
      exact BitVec.eq_of_toNat_eq (by omega)
    exact (List.nodup_map_iff_inj_on (List.Nodup.of_map _ hnodup)).2 hinjective

/-- R102: an accepted CHANNEL_SET keeps a legal record legal. -/
theorem SetFields.applySettings_legal {p : List Byte} {ch : Channel} (hf : (readSet p).failing (some ch) = none) (now : Time)
    (c : ChannelId) (h : ch.Legal) : (ch.applySettings now c (readSet p).settings).1.Legal := by
  obtain ⟨-, hlow, hhigh, -, -, hfit⟩ := SetFields.failing_none hf
  have hdeadband : (readSet p).settings.deadband < 256 ^ 2 := fieldAt_lt p 2 2
  have hwindow : (readSet p).settings.staleWindow < 256 ^ 2 := fieldAt_lt p 17 2
  exact h.applySettings now c _ ⟨hlow, hhigh⟩ (by omega) (by omega) fun hon => hfit (beq_iff_eq.1 hon) ch rfl

section
variable {P : State → Prop}

/-! ### The changes of the Channel Table's events (R108, R111, R112) -/

theorem TableChanges.release (k : TableChanges P) {s : State} (h : P s) (i : StreamId) (c : ChannelId) (raw : Sample) :
    P (s.release i c raw) := by
  unfold State.release
  split
  · exact h
  · rename_i ch hch
    split_ifs
    · exact k.raise _ _ (k.channel s c ch _ h hch (ch.release_config s.timebase c raw).1 fun hl => hl.release s.timebase c raw)
    · exact h

theorem TableChanges.staleStream (k : TableChanges P) {s : State} (h : P s) (i : StreamId) (why : StaleReason) :
    P (s.staleStream i why) := by
  refine k.raise _ _ (k.channels s _ h (fun _ ch => ?_) fun _ ch hl => ?_) <;> split
  · exact ch.enterStale_config why
  · rfl
  · exact hl.enterStale why
  · exact hl

theorem TableChanges.staleExpiry (k : TableChanges P) {s : State} (h : P s) (c : ChannelId) : P (s.staleExpiry c) := by
  unfold State.staleExpiry
  split
  · exact h
  · rename_i ch hch
    split_ifs
    · exact k.raise _ _ (k.channel s c ch _ h hch (ch.enterStale_config _) fun hl => hl.enterStale _)
    · exact h

/-! ### The work of requests -/

theorem RequestChanges.profileLoad (k : RequestChanges P) (p : List Byte) {s : State} (h : P s) : P (runProfileLoad p s).2 := by
  unfold runProfileLoad
  split
  · exact h
  · rename_i hf
    split_ifs with huse
    · exact h
    · exact k.load s _ _ h (LoadFields.failing_none hf).2 (by simpa using huse)

theorem RequestChanges.profileDrop (k : RequestChanges P) (p : List Byte) {s : State} (h : P s) : P (runProfileDrop p s).2 := by
  unfold runProfileDrop
  split
  · exact h
  · split_ifs with huse
    · exact h
    · exact k.drop s _ h (by simpa using huse)

theorem RequestChanges.streamArm (k : RequestChanges P) (p : List Byte) {s : State} (h : P s) : P (runStreamArm p s).2 := by
  have hwindow : (readArm p).window < 256 ^ 2 := fieldAt_lt p 2 2
  unfold runStreamArm
  split
  · exact h
  · rename_i hf
    split_ifs with hempty hmode
    · exact h
    · exact k.arm s _ _ h hf (by omega) (by simpa using hempty) hmode
    · exact h

theorem RequestChanges.streamDisarm (k : RequestChanges P) (p : List Byte) {s : State} (h : P s) :
    P (runStreamDisarm p s).2 := by
  unfold runStreamDisarm
  split
  · exact h
  · dsimp only
    split_ifs with hoff
    · exact h
    · exact k.disarm s _ h hoff

theorem RequestChanges.stageEdit (k : RequestChanges P) {i : StreamId} {edit : Edit} (he : ∀ e, edit = .add e → e.stream = i)
    {s : State} (h : P s) : P (s.stageEdit i edit).2 := by
  unfold State.stageEdit
  split_ifs with hpending hfull
  · exact h
  · exact h
  · have hroom : (s.stage.get i).edits.length < 64 := Nat.lt_of_not_le hfull
    exact k.stage s i edit h (by simpa using hpending) hroom he

theorem RequestChanges.mapAdd (k : RequestChanges P) (p : List Byte) {s : State} (h : P s) : P (runMapAdd p s).2 := by
  unfold runMapAdd
  split
  · exact h
  · exact k.stageEdit (by rintro e ⟨⟩; rfl) h

theorem RequestChanges.mapRemove (k : RequestChanges P) (p : List Byte) {s : State} (h : P s) : P (runMapRemove p s).2 := by
  unfold runMapRemove
  split
  · exact h
  · refine k.stageEdit (fun e he => ?_) h
    unfold RemoveFields.edit at he
    split_ifs at he

theorem RequestChanges.mapCommit (k : RequestChanges P) (p : List Byte) {s : State} (h : P s) : P (runMapCommit p s).2 := by
  unfold runMapCommit
  split
  · exact h
  · unfold State.commit
    split_ifs
    · exact h
    · exact h
    all_goals
      split
      · exact h
      · rename_i hvalid
        first
        | exact k.accept s _ h hvalid ‹_›
        | exact k.commit s _ h (.inr hvalid)

theorem RequestChanges.mapDiscard (k : RequestChanges P) (p : List Byte) {s : State} (h : P s) : P (runMapDiscard p s).2 := by
  unfold runMapDiscard
  split
  · exact h
  · exact k.discard s _ h

theorem RequestChanges.channelBind (k : RequestChanges P) (p : List Byte) {s : State} (h : P s) : P (runChannelBind p s).2 := by
  unfold runChannelBind
  split
  · exact h
  · rename_i hf
    split_ifs with hbound hroom
    · exact h
    · exact h
    · exact k.bind s _ _ h (by simpa using hbound) (BindFields.fresh_legal hf) (Nat.le_of_not_lt hroom)

theorem RequestChanges.channelUnbind (k : RequestChanges P) (p : List Byte) {s : State} (h : P s) :
    P (runChannelUnbind p s).2 := by
  unfold runChannelUnbind
  split
  · exact h
  · split
    · exact h
    · split_ifs with hclaims
      · exact h
      · exact k.unbind s _ _ h ‹_› (by omega) (by omega)

theorem RequestChanges.channelSet (k : RequestChanges P) (p : List Byte) {s : State} (h : P s) : P (runChannelSet p s).2 := by
  unfold runChannelSet
  split
  · exact h
  · rename_i hf
    split
    · exact h
    · rename_i ch hch
      rw [hch] at hf
      exact k.raise _ _ (k.channel s _ ch _ h hch (Channel.applySettings_config ch _ _ _) (SetFields.applySettings_legal hf _ _))

theorem RequestChanges.channelClear (k : RequestChanges P) (p : List Byte) {s : State} (h : P s) :
    P (runChannelClear p s).2 := by
  unfold runChannelClear
  split
  · exact h
  · split
    · exact h
    · rename_i ch hch
      exact k.channel s _ ch _ h hch (Channel.clear_config ch _) fun hl => hl.clear _

theorem RequestChanges.queueDrain (k : RequestChanges P) (p : List Byte) {s : State} (h : P s) : P (runQueueDrain p s).2 := by
  unfold runQueueDrain
  split
  · exact h
  · split
    · exact h
    · rename_i ch hch
      split_ifs
      · exact h
      · exact k.channel s _ ch _ h hch rfl fun hl => hl.drain _

theorem RequestChanges.rosterSet (k : RequestChanges P) (p : List Byte) (hp : p.length ≤ 17) {s : State} (h : P s) :
    P (runRosterSet p s).2 := by
  unfold runRosterSet
  split
  · exact h
  · rename_i hf
    refine k.rosterList s _ _ h ?_ (rosterSet_channels_nodup hf)
    rw [List.length_map, List.length_tail]
    omega

theorem RequestChanges.rosterStartRun (k : RequestChanges P) (p : List Byte) {s : State} (h : P s) :
    P (runRosterStart p s).2 := by
  unfold runRosterStart
  split
  · exact h
  · rename_i hf
    obtain ⟨-, -, hlow, hhigh⟩ := StartFields.failing_none hf
    exact k.rosterStart s _ _ _ h hlow hhigh

theorem RequestChanges.rosterStopRun (k : RequestChanges P) (p : List Byte) {s : State} (h : P s) : P (runRosterStop p s).2 := by
  unfold runRosterStop
  split
  · exact h
  · exact k.rosterStop s _ h

theorem RequestChanges.noticeMask (k : RequestChanges P) (p : List Byte) {s : State} (h : P s) : P (runNoticeMask p s).2 := by
  unfold runNoticeMask
  split_ifs
  · exact h
  · exact k.mask s _ h

/-- A property kept by every change a request can make is kept by the work of every request. -/
theorem RequestChanges.runsKeep (k : RequestChanges P) : RunsKeep P where
  draws := k.draws
  resetChannels s h := k.channels s _ h (fun _ _ => rfl) fun _ _ hl => hl.resetState
  profileLoad p _ _ := k.profileLoad p
  profileDrop p _ _ := k.profileDrop p
  streamArm p _ _ := k.streamArm p
  streamDisarm p _ _ := k.streamDisarm p
  mapAdd p _ _ := k.mapAdd p
  mapRemove p _ _ := k.mapRemove p
  mapCommit p _ _ := k.mapCommit p
  mapDiscard p _ _ := k.mapDiscard p
  channelBind p _ _ := k.channelBind p
  channelUnbind p _ _ := k.channelUnbind p
  channelSet p _ _ := k.channelSet p
  channelClear p _ _ := k.channelClear p
  queueDrain p _ _ := k.queueDrain p
  rosterSet p _ _ hp := k.rosterSet p hp
  rosterStart p _ _ := k.rosterStartRun p
  rosterStop p _ _ := k.rosterStopRun p
  noticeMask p _ _ := k.noticeMask p
  noticeGrant _ s _ h := k.grant s _ h

end

/-! ### The changes of every command -/

/-- The changes of requests and those of the other events, for a property that reads nothing of the streams' own records. -/
structure PartChanges (P : State → Prop) : Prop extends TableChanges P where
  link : ∀ (s : State) rx inbound replies cache ready tx, P s →
    P { s with rx := rx, inbound := inbound, replies := replies, cache := cache, ready := ready, tx := tx }
  time : ∀ s n, P s → P { s with timebase := n }
  syn : ∀ s i y, P s → P (s.setSyn i y)
  trk : ∀ s i t, P s → P (s.setTrk i t)
  boundary : ∀ s i n, P s → P (s.rosterBoundary i n)
  powerOn : ∀ s t, P s → P (s.powerOn t)
  fullReset : ∀ s tag, P s → P (s.fullReset tag)
  noticeSend : ∀ s, P s → P s.noticeSend

section
variable {P : State → Prop}

theorem PartChanges.streamChanges (k : PartChanges P) (i : StreamId) : StreamChanges i P where
  syn s y := k.syn s i y
  trk s t := k.trk s i t
  raise := k.raise
  stale _ why h := k.staleStream h i why
  commit s h hp := k.commit s i h (.inl hp)

theorem PartChanges.requestKeeps (k : PartChanges P) : RequestKeeps P :=
  { RequestChanges.runsKeep
      { k.toTableChanges with
        arm := fun _ i _ h _ _ _ _ => (k.streamChanges i).raiseSync (k.syn _ i _ h) _
        disarm := fun _ i h _ => (k.streamChanges i).disarm h _ } with
    link := k.link }

theorem PartChanges.sendInside (k : PartChanges P) {s : State} (h : P s) : P s.sendInside :=
  State.sendInside_keeps k.draws k.noticeSend h

theorem PartChanges.streamWork (k : PartChanges P) (i : StreamId) : StreamWork i P :=
  { k.streamChanges i with
    send := fun _ => k.sendInside
    release := fun _ c raw h => k.release h i c raw
    boundary := fun s n => k.boundary s i n
    turn := fun _ h => k.requestKeeps.takeTurn h i
    counted := k.draws }

/-- A property kept by every change of the part is kept by every command. -/
theorem PartChanges.execKeeps (k : PartChanges P) : ExecKeeps P :=
  { k.requestKeeps with
    time := k.time
    bitArrival := fun _ i b h => (k.streamWork i).bitArrival h b
    idleExpiry := fun _ i => (k.streamChanges i).idleExpiry
    windowExpiry := fun _ i => (k.streamChanges i).windowExpiry
    resetStreams := fun _ => StreamChanges.resetStreams k.streamChanges fun _ => k.sendInside
    powerOn := k.powerOn
    fullReset := k.fullReset
    staleExpiry := fun _ c h => k.staleExpiry h c
    noticeSend := k.noticeSend }

end

end Sys2Proof.Machine
end

section
/-! The invariants of the Notice Unit, the rosters and the channels (09, 08, 05 to 07) at every step. -/

namespace Sys2Proof.Machine

/-! ### The Notice Unit (R164, R165, R170, R172, R175) -/

/-- R178: a send takes the head notice off a legal unit, or leaves it. -/
theorem State.noticeSend_legal {s : State} (h : s.notices.Legal) : s.noticeSend.notices.Legal := by
  rcases s.noticeSend_cases with ⟨-, e⟩ | ⟨n, rest, -, hq, e⟩ <;> rw [e]
  · exact h
  · exact h.send hq

theorem State.raiseAll_legal {s : State} (h : s.notices.Legal) (rs : List Raise) : (s.raiseAll rs).notices.Legal :=
  State.raiseAll_keeps (P := fun s => s.notices.Legal) (fun _ r h => h.take r)
    (fun _ h => State.sendInside_keeps (P := fun s => s.notices.Legal) (fun _ _ h => h) (fun _ => State.noticeSend_legal) h) h rs

/-- Of the changes of the part, raises, sends, a mask and a grant touch the unit. -/
theorem partChanges_noticesLegal : PartChanges fun s => s.notices.Legal where
  draws _ _ h := h
  raise _ rs h := State.raiseAll_legal h rs
  load _ _ _ h _ _ := h
  drop _ _ h _ := h
  stage _ _ _ h _ _ _ := h
  discard _ _ h := h
  accept _ _ h _ _ := h
  commit s _ h _ := by rwa [State.applyCommit, State.mapChannels_notices]
  bind _ _ _ h _ _ _ := h
  unbind _ _ _ h _ _ _ := h
  channel _ _ _ _ h _ _ _ := h
  channels s f h _ _ := by rwa [State.mapChannels_notices]
  rosterList _ _ _ h _ _ := h
  rosterStart _ _ _ _ h _ _ := h
  rosterStop _ _ h := h
  mask _ m h := h.setMask m
  grant _ n h := h.grant n
  link _ _ _ _ _ _ _ h := h
  time _ _ h := h
  syn _ _ _ h := h
  trk _ _ _ h := h
  boundary s i _ h := State.raiseAll_legal (s := { s with rosters := s.rosters.map fun v => v.boundary i }) h _
  powerOn _ _ _ := NoticeUnit.Legal.reset
  fullReset _ _ _ := NoticeUnit.Legal.reset
  noticeSend _ h := State.noticeSend_legal h

/-- Settles O60: every change of the part keeps the Notice Unit legal, and a command is made of those changes. -/
theorem noticesKept : Obligations.NoticesKept := fun _ _ =>
  partChanges_noticesLegal.execKeeps.step fun _ _ h => h

/-! ### The rosters (R151, R159) -/

theorem Roster.Legal.reset : Roster.reset.Legal where
  slots := Nat.zero_le _
  distinct := List.nodup_nil
  period := by decide
  idle _ := rfl
  periodic h := by cases h

theorem Roster.Legal.start {v : Roster} (h : v.Legal) (i : StreamId) {period : Nat} (hlow : 1 ≤ period) (hhigh : period ≤ 255) :
    (v.start i period).Legal :=
  { h with
    period := ⟨hlow, hhigh⟩
    idle := fun hidle => by cases hidle
    periodic := fun _ => ⟨hlow, Nat.le_refl _⟩ }

theorem Roster.Legal.stop {v : Roster} (h : v.Legal) : v.stop.Legal :=
  { h with
    idle := fun _ => rfl
    periodic := fun hperiodic => by cases hperiodic }

/-- R159: a roster that counts reloads its period at 0 and else stays above 0. -/
theorem Roster.Legal.boundary {v : Roster} (h : v.Legal) (i : StreamId) : (v.boundary i).Legal := by
  unfold Roster.boundary
  split_ifs with hfires hcounts
  · have hmode : v.mode = .periodic := by
      simp only [Roster.fires, Roster.counts, Bool.and_eq_true, decide_eq_true_eq] at hfires
      exact hfires.1.1
    exact { h with
      idle := fun hidle => by rw [hmode] at hidle; cases hidle
      periodic := fun _ => ⟨h.period.1, Nat.le_refl _⟩ }
  · have hmode : v.mode = .periodic := by
      simp only [Roster.counts, decide_eq_true_eq] at hcounts
      exact hcounts.1
    have hleft : v.countdown - 1 ≠ 0 := by
      simpa only [Roster.fires, hcounts, Bool.true_and, decide_eq_true_eq] using hfires
    have hrange := h.periodic hmode
    exact { h with
      idle := fun hidle => by rw [hmode] at hidle; cases hidle
      periodic := fun _ => ⟨show 1 ≤ v.countdown - 1 by omega, show v.countdown - 1 ≤ v.period by omega⟩ }
  · exact h

/-- Every roster of the part is legal. -/
abbrev State.RostersLegal (s : State) : Prop := ∀ r, (s.roster r).Legal

theorem State.RostersLegal.congr {s t : State} (h : s.RostersLegal) (hr : t.rosters = s.rosters) : t.RostersLegal := fun r => by
  rw [State.roster_congr hr]
  exact h r

theorem State.RostersLegal.setRoster {s : State} (h : s.RostersLegal) {r : RosterId} {v : Roster} (hv : v.Legal) :
    (s.setRoster r v).RostersLegal := fun j => by
  rw [State.roster_setRoster]
  split_ifs
  · exact hv
  · exact h j

theorem State.RostersLegal.rosterBoundary {s : State} (h : s.RostersLegal) (i : StreamId) (n : BitVec 32) :
    (s.rosterBoundary i n).RostersLegal := by
  have hcounted : ({ s with rosters := s.rosters.map fun v => v.boundary i } : State).RostersLegal := fun r => by
    rw [State.roster_eq, Vector.getElem_map]
    exact (h r).boundary i
  exact hcounted.congr (State.raiseAll_rosters _ _)

theorem State.reset_rostersLegal : State.reset.RostersLegal := fun r => by
  rw [State.roster_eq, State.reset, Vector.getElem_replicate]
  exact Roster.Legal.reset

/-- Of the changes of the part, the roster requests, a boundary and a reset touch the rosters. -/
theorem partChanges_rostersLegal : PartChanges State.RostersLegal where
  draws _ _ h := h
  raise _ _ h := h.congr (State.raiseAll_rosters _ _)
  load _ _ _ h _ _ := h
  drop _ _ h _ := h
  stage _ _ _ h _ _ _ := h
  discard _ _ h := h
  accept _ _ h _ _ := h
  commit _ _ h _ := h.congr (State.mapChannels_rosters _ _)
  bind _ _ _ h _ _ _ := h
  unbind _ _ _ h _ _ _ := h
  channel _ _ _ _ h _ _ _ := h
  channels _ _ h _ _ := h.congr (State.mapChannels_rosters _ _)
  rosterList _ r _ h hslots hdistinct := h.setRoster { h r with slots := hslots, distinct := hdistinct }
  rosterStart _ r i _ h hlow hhigh := h.setRoster ((h r).start i hlow hhigh)
  rosterStop _ r h := h.setRoster (h r).stop
  mask _ _ h := h
  grant _ _ h := h
  link _ _ _ _ _ _ _ h := h
  time _ _ h := h
  syn _ _ _ h := h
  trk _ _ _ h := h
  boundary _ i n h := h.rosterBoundary i n
  powerOn _ _ _ := State.reset_rostersLegal
  fullReset _ _ _ := State.reset_rostersLegal
  noticeSend s h := by
    rcases s.noticeSend_cases with ⟨-, e⟩ | ⟨_, _, -, -, e⟩ <;> rw [e] <;> exact h

/-- Settles O57: a list, a period and a countdown change only as the roster requests and a boundary change them. -/
theorem rostersKept : Obligations.RostersKept := fun _ _ =>
  partChanges_rostersLegal.execKeeps.step fun _ _ h => h

/-! ### The channels and the pool (05, 06, 07) -/

theorem State.reset_channelsLegal : State.reset.ChannelsLegal where
  records c ch h := by
    rw [State.channel_eq, State.reset, Vector.getElem_replicate] at h
    cases h
  pool := by
    have hempty : ∀ c ∈ allChannels, reservedBy (State.reset.channel c) = 0 := fun c _ => by
      rw [State.channel_eq, State.reset, Vector.getElem_replicate]
      rfl
    rw [State.reserved_eq, List.map_congr_left hempty, List.sum_map_zero]
    rfl

theorem State.channel_updated (s : State) (c d : ChannelId) (r : Option Channel) (n : Nat) :
    ({ s.setChannel c r with poolFree := n } : State).channel d = if d = c then r else s.channel d :=
  s.channel_setChannel c d r

theorem State.reserved_updated (s : State) (c : ChannelId) (r : Option Channel) (n : Nat) :
    ({ s.setChannel c r with poolFree := n } : State).reserved + reservedBy (s.channel c) = s.reserved + reservedBy r :=
  s.reserved_setChannel c r

/-- R99, R136: a bind takes its reservation from the pool. -/
theorem State.ChannelsLegal.bind {s : State} (h : s.ChannelsLegal) {c : ChannelId} {config : ChannelConfig}
    (hc : s.channel c = none) (hl : (Channel.fresh config).Legal) (hroom : config.capacity ≤ s.poolFree) :
    ({ s.setChannel c (some (.fresh config)) with poolFree := s.poolFree - config.capacity } : State).ChannelsLegal where
  records d ch hd := by
    rw [State.channel_updated] at hd
    split_ifs at hd
    · cases hd
      exact hl
    · exact h.records d ch hd
  pool := by
    have hsum := s.reserved_updated c (some (.fresh config)) (s.poolFree - config.capacity)
    rw [hc] at hsum
    have hpool := h.pool
    simp only [reservedBy, Channel.fresh] at hsum ⊢
    omega

/-- R101: an unbind gives its reservation back to the pool. -/
theorem State.ChannelsLegal.unbind {s : State} (h : s.ChannelsLegal) {c : ChannelId} {ch : Channel}
    (hc : s.channel c = some ch) :
    ({ s.setChannel c none with poolFree := s.poolFree + ch.config.capacity } : State).ChannelsLegal where
  records d x hd := by
    rw [State.channel_updated] at hd
    split_ifs at hd
    exact h.records d x hd
  pool := by
    have hsum := s.reserved_updated c none (s.poolFree + ch.config.capacity)
    rw [hc] at hsum
    have hpool := h.pool
    simp only [reservedBy] at hsum ⊢
    omega

/-- R86: applying a commit sets widths, which a legal record takes. -/
theorem State.ChannelsLegal.applyCommit {s : State} (h : s.ChannelsLegal) (i : StreamId) : (s.applyCommit i).ChannelsLegal := by
  have hstaged := h.congr (t := { s with
    map := applyEdits i s.map (s.stage.get i).edits, stage := s.stage.set i .reset }) rfl rfl
  refine hstaged.mapChannels (fun _ _ hl => ?_) fun _ ch => ?_ <;> split
  · exact hl.setWidth _
  · exact hl
  · exact ch.setWidth_config _
  · rfl

/-- Of the changes of the part, those of the channel requests, the releases, the stops, the commits and the resets touch a
record, and bind and unbind alone the pool. -/
theorem partChanges_channelsLegal : PartChanges State.ChannelsLegal where
  draws _ _ h := h.congr rfl rfl
  raise _ _ h := h.congr (State.raiseAll_channels _ _) (State.raiseAll_poolFree _ _)
  load _ _ _ h _ _ := h.congr rfl rfl
  drop _ _ h _ := h.congr rfl rfl
  stage _ _ _ h _ _ _ := h.congr rfl rfl
  discard _ _ h := h.congr rfl rfl
  accept _ _ h _ _ := h.congr rfl rfl
  commit _ i h _ := h.applyCommit i
  bind _ _ _ h := h.bind
  unbind _ _ _ h hc _ _ := h.unbind hc
  channel _ c ch _ h hc hconfig hlegal := h.setSame hc (hlegal (h.records c ch hc)) hconfig
  channels _ _ h hconfig hlegal := h.mapChannels hlegal hconfig
  rosterList _ _ _ h _ _ := h.congr rfl rfl
  rosterStart _ _ _ _ h _ _ := h.congr rfl rfl
  rosterStop _ _ h := h.congr rfl rfl
  mask _ _ h := h.congr rfl rfl
  grant _ _ h := h.congr rfl rfl
  link _ _ _ _ _ _ _ h := h.congr rfl rfl
  time _ _ h := h.congr rfl rfl
  syn _ _ _ h := h.congr rfl rfl
  trk _ _ _ h := h.congr rfl rfl
  boundary _ _ _ h := h.congr (State.raiseAll_channels _ _) (State.raiseAll_poolFree _ _)
  powerOn _ _ _ := State.reset_channelsLegal.congr rfl rfl
  fullReset _ _ _ := State.reset_channelsLegal.congr rfl rfl
  noticeSend s h := by
    rcases s.noticeSend_cases with ⟨-, e⟩ | ⟨_, _, -, -, e⟩ <;> rw [e]
    · exact h
    · exact h.congr rfl rfl

/-- Settles O53: a record changes only as its own laws keep it legal, and the pool as a bind or an unbind moves a
reservation. -/
theorem channelsKept : Obligations.ChannelsKept := fun _ _ =>
  partChanges_channelsLegal.execKeeps.step fun _ _ h => h.congr rfl rfl

end Sys2Proof.Machine
end

section
/-! The Link Interface (10): what the rest of the part leaves of it, and its invariant at every step. -/

namespace Sys2Proof.Machine

/-! ### What requests and streams leave of the Link Interface -/

/-- The two states agree in the receiver, the queues, the cache and the READY, in the Timebase, the link rate and the waiting
commands: in all but the tables, the streams' records, the Notice Unit, the line and the count of free values. -/
structure State.SameLink (s t : State) : Prop where
  rx : t.rx = s.rx
  inbound : t.inbound = s.inbound
  replies : t.replies = s.replies
  cache : t.cache = s.cache
  ready : t.ready = s.ready
  timebase : t.timebase = s.timebase
  linkRate : t.linkRate = s.linkRate
  pending : t.pending = s.pending

theorem State.SameLink.refl (s : State) : s.SameLink s := ⟨rfl, rfl, rfl, rfl, rfl, rfl, rfl, rfl⟩

theorem State.SameLink.trans {s t u : State} (h : s.SameLink t) (h' : t.SameLink u) : s.SameLink u where
  rx := h'.rx.trans h.rx
  inbound := h'.inbound.trans h.inbound
  replies := h'.replies.trans h.replies
  cache := h'.cache.trans h.cache
  ready := h'.ready.trans h.ready
  timebase := h'.timebase.trans h.timebase
  linkRate := h'.linkRate.trans h.linkRate
  pending := h'.pending.trans h.pending

theorem State.sameLink_raiseAll (s : State) (rs : List Raise) : s.SameLink (s.raiseAll rs) := by
  obtain ⟨n, x, d, e⟩ := s.raiseAll_frame rs
  rw [e]
  exact ⟨rfl, rfl, rfl, rfl, rfl, rfl, rfl, rfl⟩

theorem State.sameLink_sendInside (s : State) : s.SameLink s.sendInside := by
  obtain ⟨n, x, d, e⟩ := s.sendInside_frame
  rw [e]
  exact ⟨rfl, rfl, rfl, rfl, rfl, rfl, rfl, rfl⟩

theorem State.sameLink_noticeSend (s : State) : s.SameLink s.noticeSend := by
  rcases s.noticeSend_cases with ⟨-, e⟩ | ⟨_, _, -, -, e⟩ <;> rw [e]
  · exact .refl s
  · exact ⟨rfl, rfl, rfl, rfl, rfl, rfl, rfl, rfl⟩

theorem State.sameLink_mapChannels (s : State) (f : ChannelId → Channel → Channel) : s.SameLink (s.mapChannels f) :=
  ⟨s.mapChannels_rx f, s.mapChannels_inbound f, s.mapChannels_replies f, s.mapChannels_cache f, s.mapChannels_ready f,
    s.mapChannels_timebase f, s.mapChannels_linkRate f, s.mapChannels_pending f⟩

theorem State.sameLink_applyCommit (s : State) (i : StreamId) : s.SameLink (s.applyCommit i) := by
  unfold State.applyCommit
  refine State.SameLink.trans ?_ (State.sameLink_mapChannels _ _)
  exact ⟨rfl, rfl, rfl, rfl, rfl, rfl, rfl, rfl⟩

theorem State.sameLink_rosterBoundary (s : State) (i : StreamId) (n : BitVec 32) : s.SameLink (s.rosterBoundary i n) := by
  unfold State.rosterBoundary
  refine State.SameLink.trans ?_ (State.sameLink_raiseAll _ _)
  exact ⟨rfl, rfl, rfl, rfl, rfl, rfl, rfl, rfl⟩

/-- No change of the tables touches the Link Interface. -/
theorem tableChanges_sameLink (u : State) : TableChanges u.SameLink where
  draws _ _ h := h.trans ⟨rfl, rfl, rfl, rfl, rfl, rfl, rfl, rfl⟩
  raise s rs h := h.trans (s.sameLink_raiseAll rs)
  load _ _ _ h _ _ := h.trans ⟨rfl, rfl, rfl, rfl, rfl, rfl, rfl, rfl⟩
  drop _ _ h _ := h.trans ⟨rfl, rfl, rfl, rfl, rfl, rfl, rfl, rfl⟩
  stage _ _ _ h _ _ _ := h.trans ⟨rfl, rfl, rfl, rfl, rfl, rfl, rfl, rfl⟩
  discard _ _ h := h.trans ⟨rfl, rfl, rfl, rfl, rfl, rfl, rfl, rfl⟩
  accept _ _ h _ _ := h.trans ⟨rfl, rfl, rfl, rfl, rfl, rfl, rfl, rfl⟩
  commit s i h _ := h.trans (s.sameLink_applyCommit i)
  bind _ _ _ h _ _ _ := h.trans ⟨rfl, rfl, rfl, rfl, rfl, rfl, rfl, rfl⟩
  unbind _ _ _ h _ _ _ := h.trans ⟨rfl, rfl, rfl, rfl, rfl, rfl, rfl, rfl⟩
  channel _ _ _ _ h _ _ _ := h.trans ⟨rfl, rfl, rfl, rfl, rfl, rfl, rfl, rfl⟩
  channels s f h _ _ := h.trans (s.sameLink_mapChannels f)
  rosterList _ _ _ h _ _ := h.trans ⟨rfl, rfl, rfl, rfl, rfl, rfl, rfl, rfl⟩
  rosterStart _ _ _ _ h _ _ := h.trans ⟨rfl, rfl, rfl, rfl, rfl, rfl, rfl, rfl⟩
  rosterStop _ _ h := h.trans ⟨rfl, rfl, rfl, rfl, rfl, rfl, rfl, rfl⟩
  mask _ _ h := h.trans ⟨rfl, rfl, rfl, rfl, rfl, rfl, rfl, rfl⟩
  grant _ _ h := h.trans ⟨rfl, rfl, rfl, rfl, rfl, rfl, rfl, rfl⟩

/-- No change of a stream's stop touches the Link Interface. -/
theorem streamChanges_sameLink (u : State) (i : StreamId) : StreamChanges i u.SameLink where
  syn _ _ h := h.trans ⟨rfl, rfl, rfl, rfl, rfl, rfl, rfl, rfl⟩
  trk _ _ h := h.trans ⟨rfl, rfl, rfl, rfl, rfl, rfl, rfl, rfl⟩
  raise s rs h := h.trans (s.sameLink_raiseAll rs)
  stale _ why h := (tableChanges_sameLink u).staleStream h i why
  commit s h _ := h.trans (s.sameLink_applyCommit i)

/-- R189: a request's work, but for its reply and a RESET's, leaves the Link Interface. -/
theorem requestChanges_sameLink (u : State) : RequestChanges u.SameLink :=
  { tableChanges_sameLink u with
    arm := fun _ i _ h _ _ _ _ => (streamChanges_sameLink u i).raiseSync ((streamChanges_sameLink u i).syn _ _ h) _
    disarm := fun _ i h _ => (streamChanges_sameLink u i).disarm h _ }

theorem State.sameLink_resetStreams (s : State) : s.SameLink s.resetStreams :=
  StreamChanges.resetStreams (streamChanges_sameLink s) (fun u h => h.trans u.sameLink_sendInside) (.refl s)

/-- R189, R191: a turn's work on a new request is a reply, after work that leaves the Link Interface. -/
theorem actAny_sameLink (q : Request) (s : State) : ∃ t r, s.SameLink t ∧ actAny q s = t.answer q r :=
  (requestChanges_sameLink s).runsKeep.actAny (.refl s) q

/-! ### What a request row can do (R189, R199) -/

/-- A request row leaves the state, makes the turn of the executor on the head it takes, or carries out a RESET of scope FULL or
STREAMS. -/
theorem exec_request_cases {c : Instr} {s t : State} (hc : c.isRequest = true) (he : exec c s = .next t) :
    t = s
    ∨ (∃ q rest, s.head q rest ∧ takenBy c q = true ∧ t = s.takeAny)
    ∨ ∃ q rest, s.fresh q rest ∧ resetRefusal q = none ∧
      (c = .resetFull ∧ t = ({ s with inbound := rest } : State).fullReset q.tag
        ∨ c = .resetStreams ∧ t = ({ s with inbound := rest } : State).resetStreams.answer q (.ok (byte 1))) := by
  obtain ⟨act, hact⟩ := exec_eq_takeRequest hc s
  rcases s.takeRequest_cases (takenBy c) act with hsame | ⟨q, rest, hhead, htaken, -⟩
  · cases he.symm.trans (hact.trans (congrArg _ hsame))
    exact .inl rfl
  · by_cases hrefused : c = .resetFull ∨ c = .resetStreams → s.cached q = none → (resetRefusal q).isSome = true
    · cases he.symm.trans (exec_takesHead hhead hc htaken hrefused)
      exact .inr (.inl ⟨q, rest, hhead, htaken, rfl⟩)
    · push Not at hrefused
      obtain ⟨hreset, hnew, hcarried⟩ := hrefused
      have hnone : resetRefusal q = none := by simpa using hcarried
      refine .inr (.inr ⟨q, rest, ⟨hhead, hnew⟩, hnone, ?_⟩)
      rcases hreset with rfl | rfl
      · refine .inl ⟨rfl, ?_⟩
        cases he
        rw [State.takeRequest_fresh (wanted := takesReset 0) ⟨hhead, hnew⟩ htaken, actResetFull, hnone]
      · refine .inr ⟨rfl, ?_⟩
        cases he
        rw [State.takeRequest_fresh (wanted := takesReset 1) ⟨hhead, hnew⟩ htaken, actResetStreams, hnone]

/-! ### The link's queues and cache (R188, R194, R195) -/

theorem State.LinkLegal.sameLink {s t : State} (h : s.LinkLegal) (e : s.SameLink t) : t.LinkLegal where
  receiver := e.rx ▸ h.receiver
  inboundSlots := e.inbound ▸ h.inboundSlots
  payloads := e.inbound ▸ h.payloads
  replySlots := e.replies ▸ h.replySlots
  cacheSlots := e.cache ▸ h.cacheSlots
  cacheTags := e.cache ▸ h.cacheTags

theorem State.LinkLegal.pop {s : State} (h : s.LinkLegal) {q : Request} {rest : List Request} (hq : s.inbound = q :: rest) :
    ({ s with inbound := rest } : State).LinkLegal :=
  { h with
    inboundSlots := by
      have hslots := h.inboundSlots
      rw [hq, List.length_cons] at hslots
      exact Nat.le_of_succ_le hslots
    payloads := fun x hx => h.payloads x (hq ▸ List.mem_cons_of_mem q hx) }

theorem State.LinkLegal.reply {s : State} (h : s.LinkLegal) (hroom : s.replies.length < 4) (body : List Byte) :
    ({ s with replies := s.replies ++ [body] } : State).LinkLegal :=
  { h with replySlots := by simpa using hroom }

/-- R194, R195: an answer for which a reply place is free. -/
theorem State.LinkLegal.answer {s : State} (h : s.LinkLegal) (hroom : s.replies.length < 4) (q : Request) (r : Reply) :
    (s.answer q r).LinkLegal :=
  { h.reply hroom (r.body q) with
    cacheSlots := placeInCache_length h.cacheSlots _
    cacheTags := placeInCache_tags h.cacheTags _ }

theorem State.LinkLegal.takeAny {s : State} (h : s.LinkLegal) : s.takeAny.LinkLegal := by
  refine State.takeRequest_keeps (P := State.LinkLegal) ?_ ?_ ?_ h
  · rintro s rest h ⟨q, hq⟩ -
    exact h.pop hq
  · intro s e h hroom
    exact h.reply hroom e.body
  · intro q s h hroom _
    obtain ⟨t, r, hsame, hanswer⟩ := actAny_sameLink q s
    rw [hanswer]
    exact (h.sameLink hsame).answer (hsame.replies ▸ hroom) q r

theorem State.LinkLegal.takeTurn {s : State} (h : s.LinkLegal) (i : StreamId) : (s.takeTurn i).LinkLegal := by
  unfold State.takeTurn
  split_ifs
  · exact h.takeAny
  · exact h

theorem Receiver.legal_reset : Receiver.reset.legal := ⟨Receiver.shaped_reset, by decide⟩

theorem State.LinkLegal.dropPartial {s : State} (h : s.LinkLegal) : s.dropPartial.LinkLegal := by
  unfold State.dropPartial
  split_ifs
  · exact h
  · exact { h with receiver := Receiver.legal_reset }

/-- R188, R203: a body of legal length joins the queue with a payload of at most 248 bytes, while fewer than 4 wait. -/
theorem enqueue_legal {inbound : List Request} {body : List Byte} (hbody : body.length ≤ 250)
    (h : inbound.length ≤ 4 ∧ ∀ q ∈ inbound, q.payload.length ≤ 248) :
    (enqueue inbound body).length ≤ 4 ∧ ∀ q ∈ enqueue inbound body, q.payload.length ≤ 248 := by
  unfold enqueue
  split
  · exact h
  · rename_i q hq
    have hpayload : q.payload.length ≤ 248 := by
      match body with
      | kind :: tag :: payload =>
        cases hq
        exact Nat.le_of_add_le_add_right (b := 2) hbody
    split_ifs with hroom
    · refine ⟨by rw [List.length_append, List.length_singleton]; exact hroom, fun x hx => ?_⟩
      rcases List.mem_append.1 hx with hx | hx
      · exact h.2 x hx
      · rw [List.mem_singleton.1 hx]
        exact hpayload
    · exact h

theorem foldl_enqueue_legal {bodies : List (List Byte)} (hbodies : ∀ body ∈ bodies, body.length ≤ 250) {inbound : List Request}
    (h : inbound.length ≤ 4 ∧ ∀ q ∈ inbound, q.payload.length ≤ 248) :
    (bodies.foldl enqueue inbound).length ≤ 4 ∧ ∀ q ∈ bodies.foldl enqueue inbound, q.payload.length ≤ 248 := by
  induction bodies generalizing inbound with
  | nil => exact h
  | cons body bodies ih =>
    exact ih (fun x hx => hbodies x (List.mem_cons_of_mem _ hx)) (enqueue_legal (hbodies body List.mem_cons_self) h)

/-- R185 to R188: the receiver keeps its shape, and what it hands over fits the queue. -/
theorem State.LinkLegal.takeByte {s : State} (h : s.LinkLegal) (b : Byte) : (s.takeByte b).LinkLegal := by
  obtain ⟨hshaped, hbodies⟩ := Receiver.takeBytes_shaped s.rx.bound h.receiver.1 [b]
  have hqueue := foldl_enqueue_legal (fun body hb => (hbodies body hb).2) ⟨h.inboundSlots, h.payloads⟩
  exact
    { h with
      receiver := ⟨hshaped, by
        dsimp only [State.takeByte]
        split_ifs with hseek <;> simp [hseek]⟩
      inboundSlots := hqueue.1
      payloads := hqueue.2 }

theorem State.LinkLegal.byteArrival {s : State} (h : s.LinkLegal) (b : LineByte) : (s.byteArrival b).LinkLegal := by
  unfold State.byteArrival
  split_ifs
  · exact h.takeByte b.value
  · exact h.dropPartial

theorem State.LinkLegal.gapExpiry {s : State} (h : s.LinkLegal) : s.gapExpiry.LinkLegal := by
  unfold State.gapExpiry
  split_ifs
  · exact h.dropPartial
  · exact h

theorem State.LinkLegal.sendReady {s : State} (h : s.LinkLegal) : s.sendReady.LinkLegal := by
  unfold State.sendReady
  (repeat' split) <;> exact { h with }

theorem State.LinkLegal.sendReply {s : State} (h : s.LinkLegal) : s.sendReply.LinkLegal := by
  unfold State.sendReply
  split
  · split
    · rename_i body rest hreplies
      have hslots := h.replySlots
      rw [hreplies, List.length_cons] at hslots
      exact { h with replySlots := Nat.le_of_succ_le hslots }
    · exact h
  · exact h

theorem State.reset_linkLegal : State.reset.LinkLegal where
  receiver := Receiver.legal_reset
  inboundSlots := by decide
  payloads _ hq := by cases hq
  replySlots := by decide
  cacheSlots := by decide
  cacheTags := .nil

/-- Inside a bit only the turns of the executor touch the Link Interface. -/
theorem streamWork_linkLegal (i : StreamId) : StreamWork i State.LinkLegal where
  syn _ _ h := { h with }
  trk _ _ h := { h with }
  raise s rs h := h.sameLink (s.sameLink_raiseAll rs)
  stale s why h := h.sameLink ((tableChanges_sameLink s).staleStream (.refl s) i why)
  commit s h _ := h.sameLink (s.sameLink_applyCommit i)
  send s h := h.sameLink s.sameLink_sendInside
  release s c raw h := h.sameLink ((tableChanges_sameLink s).release (.refl s) i c raw)
  boundary s n h := h.sameLink (s.sameLink_rosterBoundary i n)
  turn _ h := h.takeTurn i
  counted _ _ h := { h with }

theorem State.LinkLegal.request {c : Instr} {s t : State} (h : s.LinkLegal) (hc : c.isRequest = true)
    (he : exec c s = .next t) : t.LinkLegal := by
  rcases exec_request_cases hc he with rfl | ⟨_, _, -, -, rfl⟩ | ⟨q, rest, ⟨⟨hq, hroom⟩, -⟩, -, ⟨-, rfl⟩ | ⟨-, rfl⟩⟩
  · exact h
  · exact h.takeAny
  · exact { State.reset_linkLegal with }
  · have hsame := State.sameLink_resetStreams { s with inbound := rest }
    exact ((h.pop hq).sameLink hsame).answer (by rw [hsame.replies]; exact hroom) q _

theorem State.LinkLegal.exec {c : Instr} {s t : State} (h : s.LinkLegal) (he : exec c s = .next t) : t.LinkLegal := by
  by_cases hc : c.isRequest = true
  · exact h.request hc he
  · have next : ∀ {u : State}, (.next u : Host.Outcome State Fault Refusal) = .next t → u.LinkLegal → t.LinkLegal := by
      rintro u ⟨⟩ hu
      exact hu
    cases c
    case powerOnReset straps => exact next he { State.reset_linkLegal with }
    case bitArrival i bit => exact next he ((streamWork_linkLegal i).bitArrival h bit)
    case idleExpiry i => exact next he ((streamWork_linkLegal i).idleExpiry h)
    case windowExpiry i => exact next he ((streamWork_linkLegal i).windowExpiry h)
    case staleTimerExpiry n =>
      simp only [Machine.exec, execStaleTimerExpiry] at he
      split_ifs at he
      exact next he (h.sameLink ((tableChanges_sameLink s).staleExpiry (.refl s) _))
    case frameReceived bytes =>
      refine next he ?_
      clear he next hc
      induction bytes generalizing s with
      | nil => exact h
      | cons b bytes ih => exact ih (h.byteArrival b)
    case gapTimerExpiry => exact next he h.gapExpiry
    case sendReady => exact next he h.sendReady
    case sendReply => exact next he h.sendReply
    case noticeSend => exact next he (h.sameLink s.sameLink_noticeSend)
    case frameSent => exact next he { h with }
    case byteArrival b => exact next he (h.byteArrival b)
    case timebaseTick => exact next he { h with }
    all_goals exact absurd rfl hc

/-- Settles O16: outside the receiver, the transmitter and the executor nothing touches the Link Interface, and each of the
three keeps its own bounds. -/
theorem linkKept : Obligations.LinkKept := by
  intro s t h he
  have hwaiting (l : List Instr) : ({ s with pending := l } : State).LinkLegal := { h with }
  unfold step at he
  split at he
  · cases he
    exact h
  · exact (hwaiting _).exec he

end Sys2Proof.Machine
end

section
/-! The extraction map (04): staged edits applied and checked (R76 to R79, R85), and the invariant of the map at every step. -/

namespace Sys2Proof.Machine

/-! ### Edits applied to a list of entries (R70, R85) -/

theorem applyEdits_cons (i : StreamId) (entries : List MapEntry) (edit : Edit) (edits : List Edit) :
    applyEdits i entries (edit :: edits) = applyEdits i (applyEdit i entries edit) edits := rfl

theorem mem_applyEdit {i : StreamId} {entries : List MapEntry} {edit : Edit} {e : MapEntry} (h : e ∈ applyEdit i entries edit) :
    e ∈ entries ∨ edit = .add e := by
  cases edit with
  | add x =>
    rcases List.mem_append.1 h with h | h
    · exact .inl h
    · exact .inr (by rw [List.mem_singleton.1 h])
  | remove c k f => exact .inl (List.mem_filter.1 h).1
  | removeAll c k => exact .inl (List.mem_filter.1 h).1

/-- R85: the entries after the edits were there before or were added. -/
theorem mem_applyEdits {i : StreamId} {entries : List MapEntry} {edits : List Edit} {e : MapEntry}
    (h : e ∈ applyEdits i entries edits) : e ∈ entries ∨ Edit.add e ∈ edits := by
  induction edits generalizing entries with
  | nil => exact .inl h
  | cons edit edits ih =>
    rcases ih h with h | h
    · rcases mem_applyEdit h with h | rfl
      · exact .inl h
      · exact .inr List.mem_cons_self
    · exact .inr (List.mem_cons_of_mem _ h)

/-- Every ADD of the list is one of the stream. -/
abbrev addsOf (i : StreamId) (edits : List Edit) : Prop := ∀ e, Edit.add e ∈ edits → e.stream = i

theorem ofStream_applyEdit_self {i : StreamId} {edit : Edit} (h : ∀ e, edit = .add e → e.stream = i) (entries : List MapEntry) :
    ofStream i (applyEdit i entries edit) = applyEdit i (ofStream i entries) edit := by
  cases edit with
  | add x => simp [ofStream, applyEdit, h x rfl]
  | remove c k f => exact List.filter_comm (fun e : MapEntry => e.stream == i) _ entries
  | removeAll c k => exact List.filter_comm (fun e : MapEntry => e.stream == i) _ entries

theorem ofStream_applyEdit_ne {i j : StreamId} (hne : j ≠ i) {edit : Edit} (h : ∀ e, edit = .add e → e.stream = i)
    (entries : List MapEntry) : ofStream j (applyEdit i entries edit) = ofStream j entries := by
  have hkept : ∀ edit : Edit, (entries.filter fun e => !edit.names i e).filter (fun e => e.stream == j)
      = entries.filter fun e => e.stream == j := by
    intro edit
    rw [List.filter_filter]
    refine List.filter_congr fun e _ => ?_
    by_cases hj : e.stream = j
    · cases edit <;> simp [Edit.names, hj, hne]
    · simp [hj]
  cases edit with
  | add x => simp [ofStream, applyEdit, h x rfl, hne.symm]
  | remove c k f => exact hkept _
  | removeAll c k => exact hkept _

/-- R85: the edits of a stream act on its own entries. -/
theorem ofStream_applyEdits_self {i : StreamId} {edits : List Edit} (h : addsOf i edits) (entries : List MapEntry) :
    ofStream i (applyEdits i entries edits) = applyEdits i (ofStream i entries) edits := by
  induction edits generalizing entries with
  | nil => rfl
  | cons edit edits ih =>
    rw [applyEdits_cons, ih (fun e he => h e (List.mem_cons_of_mem _ he)),
      ofStream_applyEdit_self (fun e he => h e (he ▸ List.mem_cons_self)), applyEdits_cons]

theorem ofStream_applyEdits_ne {i j : StreamId} (hne : j ≠ i) {edits : List Edit} (h : addsOf i edits)
    (entries : List MapEntry) : ofStream j (applyEdits i entries edits) = ofStream j entries := by
  induction edits generalizing entries with
  | nil => rfl
  | cons edit edits ih =>
    rw [applyEdits_cons, ih (fun e he => h e (List.mem_cons_of_mem _ he)),
      ofStream_applyEdit_ne hne fun e he => h e (he ▸ List.mem_cons_self)]

theorem countOf_eq_length (i : StreamId) (entries : List MapEntry) : countOf i entries = (ofStream i entries).length :=
  List.countP_eq_length_filter

/-! ### The checks of the staged edits (R76 to R78) -/

/-- Every edit of the list passes its checks against the copy that the edits before it give. -/
def State.EditsPass (s : State) (i : StreamId) (growth : Int) (copy : List MapEntry) (edits : List Edit) : Prop :=
  ∀ n (h : n < edits.length), s.editFails i growth (applyEdits i copy (edits.take n)) edits[n] = none

theorem State.editsPass_cons {s : State} {i : StreamId} {growth : Int} {copy : List MapEntry} {edit : Edit}
    {edits : List Edit} : s.EditsPass i growth copy (edit :: edits)
      ↔ s.editFails i growth copy edit = none ∧ s.EditsPass i growth (applyEdit i copy edit) edits := by
  constructor
  · intro h
    exact ⟨h 0 (Nat.zero_lt_succ _), fun n hn => h (n + 1) (Nat.succ_lt_succ hn)⟩
  · rintro ⟨hfirst, hrest⟩ n hn
    cases n with
    | zero => exact hfirst
    | succ n => exact hrest n (Nat.lt_of_succ_lt_succ hn)

/-- R76: edits that pass are all applied to the copy. -/
theorem State.checkEdits_pass {s : State} {i : StreamId} {growth : Int} {edits : List Edit} {copy : List MapEntry}
    (h : s.EditsPass i growth copy edits) (n : Nat) :
    s.checkEdits i growth n copy edits = (none, applyEdits i copy edits) := by
  induction edits generalizing copy n with
  | nil => rfl
  | cons edit edits ih =>
    obtain ⟨hfirst, hrest⟩ := State.editsPass_cons.1 h
    rw [State.checkEdits, hfirst]
    exact ih hrest (n + 1)

/-- R76: the first edit that fails is reported with its number. -/
theorem State.checkEdits_fail {s : State} {i : StreamId} {growth : Int} {before after : List Edit} {edit : Edit}
    {reason : MapReason} {copy : List MapEntry} (h : s.EditsPass i growth copy before)
    (hfails : s.editFails i growth (applyEdits i copy before) edit = some reason) (n : Nat) :
    (s.checkEdits i growth n copy (before ++ edit :: after)).1
      = some ⟨n + before.length, reason, some edit.channel, none, none⟩ := by
  induction before generalizing copy n with
  | nil =>
    change s.editFails i growth copy edit = some reason at hfails
    rw [List.nil_append, State.checkEdits, hfails]
    rfl
  | cons first before ih =>
    obtain ⟨hfirst, hrest⟩ := State.editsPass_cons.1 h
    rw [List.cons_append, State.checkEdits, hfirst]
    refine (ih hrest hfails (n + 1)).trans ?_
    rw [List.length_cons, Nat.add_assoc, Nat.add_comm 1]

theorem State.editsPass_of_checkEdits {s : State} {i : StreamId} {growth : Int} {edits : List Edit} {copy : List MapEntry}
    {n : Nat} (h : (s.checkEdits i growth n copy edits).1 = none) : s.EditsPass i growth copy edits := by
  induction edits generalizing copy n with
  | nil => exact fun m hm => absurd hm (Nat.not_lt_zero m)
  | cons edit edits ih =>
    rw [State.checkEdits] at h
    split at h
    · cases h
    · rename_i hfirst
      exact State.editsPass_cons.2 ⟨hfirst, ih h⟩

theorem State.editsPass_of_validate {s : State} {i : StreamId} (h : s.validate i = none) :
    s.EditsPass i (s.otherGrowth i) s.map (s.stage.get i).edits := by
  unfold State.validate at h
  split at h
  · cases h
  · rename_i copy hcopy
    exact State.editsPass_of_checkEdits (n := 0) (by rw [hcopy])

/-- R77: an ADD that passes names a channel bound to the stream and a LOADED profile, and a key that is new to the copy. -/
theorem State.addFails_none {s : State} {i : StreamId} {growth : Int} {copy : List MapEntry} {e : MapEntry}
    (h : s.addFails i growth copy e = none) :
    s.boundTo e.channel i = true ∧ (s.profile e.profile).isSome ∧ ∀ x ∈ copy, x.sameKey e = false := by
  unfold State.addFails at h
  split_ifs at h with hbound
  split at h
  · cases h
  · rename_i p hp
    unfold addFailsProfile at h
    split_ifs at h with hposition hbits hselector hduplicate hcapacity
    exact ⟨hbound, by rw [hp]; rfl, by simpa using hduplicate⟩

theorem keysDistinct_applyEdit {s : State} {i : StreamId} {growth : Int} {copy : List MapEntry} {edit : Edit}
    (h : s.editFails i growth copy edit = none) (hkeys : keysDistinct copy) : keysDistinct (applyEdit i copy edit) := by
  cases edit with
  | add e =>
    refine List.pairwise_append.2 ⟨hkeys, List.pairwise_singleton _ _, fun a ha b hb => ?_⟩
    rw [List.mem_singleton.1 hb]
    exact (State.addFails_none h).2.2 a ha
  | remove c k f => exact List.Pairwise.filter _ hkeys
  | removeAll c k => exact List.Pairwise.filter _ hkeys

/-- R77: edits that pass keep the keys distinct, and their ADDs are supported. -/
theorem State.EditsPass.sound {s : State} {i : StreamId} {growth : Int} {edits : List Edit} {copy : List MapEntry}
    (h : s.EditsPass i growth copy edits) (hadds : addsOf i edits) (hkeys : keysDistinct copy) :
    keysDistinct (applyEdits i copy edits) ∧ ∀ e, Edit.add e ∈ edits → s.supports e := by
  induction edits generalizing copy with
  | nil => exact ⟨hkeys, fun e he => by cases he⟩
  | cons edit edits ih =>
    obtain ⟨hfirst, hrest⟩ := State.editsPass_cons.1 h
    obtain ⟨hdistinct, hsupported⟩ := ih hrest (fun e he => hadds e (List.mem_cons_of_mem _ he))
      (keysDistinct_applyEdit hfirst hkeys)
    refine ⟨hdistinct, fun e he => ?_⟩
    rcases List.mem_cons.1 he with rfl | he
    · obtain ⟨hbound, hloaded, -⟩ := State.addFails_none hfirst
      exact ⟨by rw [hadds e List.mem_cons_self]; exact hbound, hloaded⟩
    · exact hsupported e he

/-! ### What the map and the pending commits claim (R11, R69) -/

/-- A committed entry, or an ADD of a pending commit. -/
def State.Claims (s : State) (e : MapEntry) : Prop :=
  e ∈ s.map ∨ ∃ i, (s.stage.get i).pending = true ∧ Edit.add e ∈ (s.stage.get i).edits

theorem Edit.any_addsProfile (edits : List Edit) (k : Slot) :
    edits.any (Edit.addsProfile k) = true ↔ ∃ e, Edit.add e ∈ edits ∧ e.profile = k := by
  simp only [List.any_eq_true]
  constructor
  · rintro ⟨edit, hmem, hadds⟩
    cases edit with
    | add e => exact ⟨e, hmem, by simpa [Edit.addsProfile] using hadds⟩
    | remove c j f => cases hadds
    | removeAll c j => cases hadds
  · rintro ⟨e, hmem, hk⟩
    exact ⟨.add e, hmem, by simp [Edit.addsProfile, hk]⟩

/-- R11: the slots that the map and the pending commits name. -/
theorem State.mappedSlot_iff (s : State) (k : Slot) : s.mappedSlot k = true ↔ ∃ e, s.Claims e ∧ e.profile = k := by
  simp only [State.mappedSlot, Bool.or_eq_true, Bool.and_eq_true, Edit.any_addsProfile]
  simp only [List.any_eq_true, beq_iff_eq, State.Claims]
  constructor
  · rintro ((⟨e, hmem, hk⟩ | ⟨hp, e, hmem, hk⟩) | ⟨hp, e, hmem, hk⟩)
    · exact ⟨e, .inl hmem, hk⟩
    · exact ⟨e, .inr ⟨.s0, hp, hmem⟩, hk⟩
    · exact ⟨e, .inr ⟨.s1, hp, hmem⟩, hk⟩
  · rintro ⟨e, hmem | ⟨i, hp, hmem⟩, hk⟩
    · exact .inl (.inl ⟨e, hmem, hk⟩)
    · cases i
      · exact .inl (.inr ⟨hp, e, hmem, hk⟩)
      · exact .inr ⟨hp, e, hmem, hk⟩

theorem State.claims_profile_ne {s : State} {k : Slot} (h : s.slotInUse k = false) {e : MapEntry} (he : s.Claims e) :
    e.profile ≠ k := by
  rintro rfl
  have hmapped := (s.mappedSlot_iff e.profile).2 ⟨e, he, rfl⟩
  simp [State.slotInUse, hmapped] at h

/-- R69, R100: a channel without claims is named by no entry and no pending ADD. -/
theorem State.claims_channel_ne {s : State} {c : ChannelId} (hcommitted : s.committedClaims c = 0)
    (hstaged : s.stagedClaims c = 0) {e : MapEntry} (he : s.Claims e) : e.channel ≠ c := by
  rintro rfl
  rcases he with he | ⟨i, -, he⟩
  · exact List.countP_eq_zero.1 hcommitted e he (by simp)
  · have hnone : ∀ i, (s.stage.get i).edits.countP (Edit.addsChannel e.channel) = 0 := by
      unfold State.stagedClaims at hstaged
      intro i
      cases i <;> omega
    exact List.countP_eq_zero.1 (hnone i) (.add e) he (by simp [Edit.addsChannel])

/-! ### The invariant (R68, R69, R79, R85) -/

theorem State.boundTo_iff (s : State) (c : ChannelId) (i : StreamId) :
    s.boundTo c i = true ↔ ∃ ch, s.channel c = some ch ∧ ch.config.stream = i := by
  unfold State.boundTo
  cases s.channel c <;> simp

/-- Whether an entry is supported depends on the bindings and on which slots are LOADED. -/
theorem State.supports.of_same {s t : State} {e : MapEntry} (h : s.supports e)
    (hchannel : (t.channel e.channel).map Channel.config = (s.channel e.channel).map Channel.config)
    (hprofile : (t.profile e.profile).isSome = (s.profile e.profile).isSome) : t.supports e := by
  obtain ⟨hbound, hloaded⟩ := h
  obtain ⟨ch, hch, hstream⟩ := (s.boundTo_iff _ _).1 hbound
  rw [hch] at hchannel
  obtain ⟨ch', hch', hconfig⟩ := Option.map_eq_some_iff.1 hchannel
  exact ⟨(t.boundTo_iff _ _).2 ⟨ch', hch', by rw [hconfig]; exact hstream⟩, by rw [hprofile]; exact hloaded⟩

/-- A legal map stays legal under a change that leaves the entries and the staged lists and supports what they claim. -/
theorem State.MapLegal.of_supports {s t : State} (h : s.MapLegal) (hmap : t.map = s.map) (hstage : t.stage = s.stage)
    (hsupports : ∀ e, s.Claims e → s.supports e → t.supports e) : t.MapLegal where
  entries e he := by
    rw [hmap] at he
    exact hsupports e (.inl he) (h.entries e he)
  keys := hmap ▸ h.keys
  stagedStream := hstage ▸ h.stagedStream
  pendingAdds i e hp he := by
    rw [hstage] at hp he
    exact hsupports e (.inr ⟨i, hp, he⟩) (h.pendingAdds i e hp he)
  pendingKeys := by
    rw [hmap, hstage]
    exact h.pendingKeys
  growth := by
    rw [hmap, hstage]
    exact h.growth

theorem State.MapLegal.congr {s t : State} (h : s.MapLegal) (hmap : t.map = s.map) (hstage : t.stage = s.stage)
    (hchannels : t.channels = s.channels) (hprofiles : t.profiles = s.profiles) : t.MapLegal :=
  h.of_supports hmap hstage fun _ _ he =>
    he.of_same (by rw [State.channel_congr hchannels]) (by rw [State.profile_congr hprofiles])

/-- Changing what a slot that is not in use holds. -/
theorem State.MapLegal.setProfile {s : State} (h : s.MapLegal) {k : Slot} (hfree : s.slotInUse k = false)
    (p : Option Profile) : (s.setProfile k p).MapLegal :=
  h.of_supports rfl rfl fun e hclaims he =>
    he.of_same rfl (by rw [State.profile_setProfile, if_neg (State.claims_profile_ne hfree hclaims)])

/-- Changing a record that nothing claims. -/
theorem State.MapLegal.setChannel {s : State} (h : s.MapLegal) {c : ChannelId} (r : Option Channel)
    (hfree : ∀ e, s.Claims e → e.channel ≠ c) : (s.setChannel c r).MapLegal :=
  h.of_supports rfl rfl fun e hclaims he =>
    he.of_same (by rw [State.channel_setChannel, if_neg (hfree e hclaims)]) rfl

/-- R69: what is claimed is bound. -/
theorem State.MapLegal.claims_supports {s : State} (h : s.MapLegal) {e : MapEntry} (he : s.Claims e) : s.supports e := by
  rcases he with he | ⟨i, hp, he⟩
  · exact h.entries e he
  · exact h.pendingAdds i e hp he

theorem State.MapLegal.setSame {s : State} (h : s.MapLegal) {c : ChannelId} {ch ch' : Channel} (hc : s.channel c = some ch)
    (hconfig : ch'.config = ch.config) : (s.setChannel c (some ch')).MapLegal :=
  h.of_supports rfl rfl fun e _ he => he.of_same (by
    rw [State.channel_setChannel]
    split_ifs with hce
    · rw [hce, hc, Option.map_some, Option.map_some, hconfig]
    · rfl) rfl

theorem State.MapLegal.mapChannels {s : State} (h : s.MapLegal) {f : ChannelId → Channel → Channel}
    (hconfig : ∀ c ch, (f c ch).config = ch.config) : (s.mapChannels f).MapLegal :=
  h.of_supports (s.mapChannels_map f) (s.mapChannels_stage f) fun e _ he => he.of_same (by
    rw [State.channel_mapChannels, Option.map_map]
    exact congrArg (fun g => (s.channel e.channel).map g) (funext (hconfig e.channel)))
    (by rw [State.profile_congr (s.mapChannels_profiles f)])

/-- R73, R91: a list that is not pending may hold any edits of its stream. -/
theorem State.MapLegal.setStage {s : State} (h : s.MapLegal) {i : StreamId} {g : EditStage} (hp : g.pending = false)
    (hadds : addsOf i g.edits) : (s.setStage i g).MapLegal := by
  have hget (j : StreamId) : (s.setStage i g).stage.get j = if j = i then g else s.stage.get j := PerStream.get_set_eq ..
  have hpending {j : StreamId} (hj : ((s.setStage i g).stage.get j).pending = true) :
      (s.setStage i g).stage.get j = s.stage.get j := by
    rw [hget] at hj ⊢
    split_ifs at hj ⊢ with hji
    · rw [hp] at hj
      cases hj
    · rfl
  refine
    { entries := h.entries, keys := h.keys, stagedStream := fun j e he => ?_, pendingAdds := fun j e hj he => ?_,
      pendingKeys := fun j hj => ?_, growth := fun j hj => ?_ }
  · rw [hget] at he
    split_ifs at he with hji
    · exact (hadds e he).trans hji.symm
    · exact h.stagedStream j e he
  · have hsame := hpending hj
    rw [hsame] at hj he
    exact h.pendingAdds j e hj he
  · have hsame := hpending hj
    rw [hsame] at hj ⊢
    exact h.pendingKeys j hj
  · have hsame := hpending hj
    rw [hsame] at hj ⊢
    exact h.growth j hj

/-- R83: a validated commit that becomes pending is sound, its growth fixed. -/
theorem State.MapLegal.makePending {s : State} (h : s.MapLegal) {i : StreamId} (hvalid : s.validate i = none) :
    (s.makePending i).MapLegal := by
  have hadds : addsOf i (s.stage.get i).edits := h.stagedStream i
  obtain ⟨hdistinct, hsupported⟩ := (State.editsPass_of_validate hvalid).sound hadds h.keys
  have hedits (j : StreamId) : ((s.makePending i).stage.get j).edits = (s.stage.get j).edits := by
    simp only [State.makePending, State.setStage_stage, PerStream.get_set_eq]
    split_ifs with hji
    · rw [hji]
    · rfl
  have hother {j : StreamId} (hji : j ≠ i) : (s.makePending i).stage.get j = s.stage.get j := PerStream.get_set_ne _ hji _
  refine
    { entries := h.entries, keys := h.keys, stagedStream := fun j e he => h.stagedStream j e (hedits j ▸ he),
      pendingAdds := fun j e hj he => ?_, pendingKeys := fun j hj => ?_, growth := fun j hj => ?_ }
  · rw [hedits] at he
    by_cases hji : j = i
    · exact hsupported e (hji ▸ he)
    · exact h.pendingAdds j e (hother hji ▸ hj) he
  · rw [hedits]
    by_cases hji : j = i
    · subst hji
      exact ofStream_applyEdits_self hadds s.map ▸ hdistinct.filter _
    · exact h.pendingKeys j (hother hji ▸ hj)
  · rw [hedits]
    by_cases hji : j = i
    · subst hji
      exact congrArg EditStage.growth (PerStream.get_set s.stage j _)
    · rw [hother hji] at hj ⊢
      exact h.growth j hj

/-- R68, R79: a commit that validated, or one that is pending, gives distinct keys and supported entries. -/
theorem State.MapLegal.applied {s : State} (h : s.MapLegal) {i : StreamId}
    (hc : (s.stage.get i).pending = true ∨ s.validate i = none) :
    keysDistinct (applyEdits i s.map (s.stage.get i).edits)
      ∧ ∀ e ∈ applyEdits i s.map (s.stage.get i).edits, s.supports e := by
  have hadds : addsOf i (s.stage.get i).edits := h.stagedStream i
  rcases hc with hp | hvalid
  · have hsupports : ∀ e ∈ applyEdits i s.map (s.stage.get i).edits, s.supports e := fun e he =>
      (mem_applyEdits he).elim (h.entries e) (h.pendingAdds i e hp)
    refine ⟨?_, hsupports⟩
    have hstreams (j : StreamId) : keysDistinct (ofStream j (applyEdits i s.map (s.stage.get i).edits)) := by
      by_cases hji : j = i
      · subst hji
        exact ofStream_applyEdits_self hadds s.map ▸ h.pendingKeys j hp
      · exact ofStream_applyEdits_ne hji hadds s.map ▸ h.keys.filter _
    refine List.pairwise_iff_forall_sublist.2 fun {a b} hab => ?_
    by_cases hstream : b.stream = a.stream
    · refine List.pairwise_iff_forall_sublist.1 (hstreams a.stream) ?_
      have hboth : [a, b].filter (fun e => e.stream == a.stream) = [a, b] := by simp [hstream]
      exact hboth ▸ hab.filter fun e => e.stream == a.stream
    · have hboundA := (hsupports a (hab.subset List.mem_cons_self)).1
      have hboundB := (hsupports b (hab.subset (List.mem_cons_of_mem _ List.mem_cons_self))).1
      obtain ⟨x, hx, hxs⟩ := (s.boundTo_iff _ _).1 hboundA
      obtain ⟨y, hy, hys⟩ := (s.boundTo_iff _ _).1 hboundB
      have hchannel : a.channel ≠ b.channel := by
        intro heq
        rw [heq, hy] at hx
        cases hx
        exact hstream (hys.symm.trans hxs)
      simp [MapEntry.sameKey, hchannel]
  · obtain ⟨hdistinct, hsupported⟩ := (State.editsPass_of_validate hvalid).sound hadds h.keys
    exact ⟨hdistinct, fun e he => (mem_applyEdits he).elim (h.entries e) (hsupported e)⟩

/-- R85, R86: applying such a commit keeps the map sound, the other stream's pending commit with it. -/
theorem State.MapLegal.applyCommit {s : State} (h : s.MapLegal) {i : StreamId}
    (hc : (s.stage.get i).pending = true ∨ s.validate i = none) : (s.applyCommit i).MapLegal := by
  obtain ⟨hkeys, hsupports⟩ := h.applied hc
  have hadds : addsOf i (s.stage.get i).edits := h.stagedStream i
  have hget (j : StreamId) : (s.stage.set i EditStage.reset).get j = if j = i then .reset else s.stage.get j :=
    PerStream.get_set_eq ..
  have hpending {j : StreamId} (hj : ((s.stage.set i EditStage.reset).get j).pending = true) :
      j ≠ i ∧ (s.stage.set i EditStage.reset).get j = s.stage.get j := by
    have hji : j ≠ i := by
      rintro rfl
      rw [PerStream.get_set] at hj
      cases hj
    exact ⟨hji, PerStream.get_set_ne _ hji _⟩
  unfold State.applyCommit
  refine State.MapLegal.mapChannels ?_ fun c ch => ?_
  · refine
      { entries := hsupports, keys := hkeys, stagedStream := fun j e he => ?_, pendingAdds := fun j e hj he => ?_,
        pendingKeys := fun j hj => ?_, growth := fun j hj => ?_ }
    · change Edit.add e ∈ ((s.stage.set i EditStage.reset).get j).edits at he
      rw [hget] at he
      split_ifs at he with hji
      · cases he
      · exact h.stagedStream j e he
    · obtain ⟨-, hsame⟩ := hpending hj
      dsimp only at hj he
      rw [hsame] at hj he
      exact h.pendingAdds j e hj he
    · obtain ⟨hji, hsame⟩ := hpending hj
      dsimp only at hj ⊢
      rw [hsame] at hj ⊢
      rw [ofStream_applyEdits_ne hji hadds]
      exact h.pendingKeys j hj
    · obtain ⟨hji, hsame⟩ := hpending hj
      dsimp only at hj ⊢
      rw [hsame] at hj ⊢
      rw [h.growth j hj, countOf_eq_length, countOf_eq_length, countOf_eq_length, countOf_eq_length,
        ofStream_applyEdits_self (h.stagedStream j), ofStream_applyEdits_self (h.stagedStream j),
        ofStream_applyEdits_ne hji hadds]
  · split_ifs
    · exact ch.setWidth_config _
    · rfl

theorem State.reset_mapLegal : State.reset.MapLegal where
  entries e he := by cases he
  keys := .nil
  stagedStream i e he := by cases i <;> cases he
  pendingAdds i e hp _ := by cases i <;> cases hp
  pendingKeys i hp := by cases i <;> cases hp
  growth i hp := by cases i <;> cases hp

/-- The map is touched by the requests on the staged lists and by the application of a commit; its entries' support by the
loads and drops of slots, which R11 guards, and by binds and unbinds, which R100 guards. -/
theorem partChanges_mapLegal : PartChanges State.MapLegal where
  draws _ _ h := h.congr rfl rfl rfl rfl
  raise _ _ h := h.congr (State.raiseAll_map _ _) (State.raiseAll_stage _ _) (State.raiseAll_channels _ _)
    (State.raiseAll_profiles _ _)
  load _ _ _ h _ hfree := h.setProfile hfree _
  drop _ _ h hfree := h.setProfile hfree _
  stage s i edit h hp _ hedit := h.setStage hp fun e he =>
    (List.mem_append.1 he).elim (h.stagedStream i e) fun he => hedit e (List.mem_singleton.1 he).symm
  discard _ _ h := h.setStage rfl fun _ he => by cases he
  accept _ _ h hvalid _ := h.makePending hvalid
  commit _ _ h hc := h.applyCommit hc
  bind s c _ h hc _ _ := by
    refine (h.setChannel (some _) fun e he heq => ?_).congr rfl rfl rfl rfl
    obtain ⟨ch, hch, -⟩ := (s.boundTo_iff _ _).1 (h.claims_supports he).1
    rw [heq, hc] at hch
    cases hch
  unbind _ _ _ h _ hcommitted hstaged :=
    (h.setChannel none fun _ he => State.claims_channel_ne hcommitted hstaged he).congr rfl rfl rfl rfl
  channel _ _ _ _ h hc hconfig _ := h.setSame hc hconfig
  channels _ _ h hconfig _ := h.mapChannels hconfig
  rosterList _ _ _ h _ _ := h.congr rfl rfl rfl rfl
  rosterStart _ _ _ _ h _ _ := h.congr rfl rfl rfl rfl
  rosterStop _ _ h := h.congr rfl rfl rfl rfl
  mask _ _ h := h.congr rfl rfl rfl rfl
  grant _ _ h := h.congr rfl rfl rfl rfl
  link _ _ _ _ _ _ _ h := h.congr rfl rfl rfl rfl
  time _ _ h := h.congr rfl rfl rfl rfl
  syn _ _ _ h := h.congr rfl rfl rfl rfl
  trk _ _ _ h := h.congr rfl rfl rfl rfl
  boundary _ _ _ h := h.congr (State.raiseAll_map _ _) (State.raiseAll_stage _ _) (State.raiseAll_channels _ _)
    (State.raiseAll_profiles _ _)
  powerOn _ _ _ := State.reset_mapLegal.congr rfl rfl rfl rfl
  fullReset _ _ _ := State.reset_mapLegal.congr rfl rfl rfl rfl
  noticeSend s h := by
    rcases s.noticeSend_cases with ⟨-, e⟩ | ⟨_, _, -, -, e⟩ <;> rw [e]
    · exact h
    · exact h.congr rfl rfl rfl rfl

/-- Settles O42: what a commit adds was checked when it was accepted, and what the entries rest on stays while they claim it. -/
theorem mapKept : Obligations.MapKept := fun _ _ =>
  partChanges_mapLegal.execKeeps.step fun _ _ h => h.congr rfl rfl rfl rfl

end Sys2Proof.Machine
end

section
/-! The extraction map (04): R70, R71, R85 to R87, R89, the application of a commit; R76 to R79, the checks of the staged
edits. -/

namespace Sys2Proof.Machine

/-! ### The application of a commit (R85, R86) -/

theorem Edit.remove_names_iff (i : StreamId) (e : MapEntry) (c : ChannelId) (k : Slot) (n : Nat) :
    (Edit.remove c k n).names i e = true ↔ e.stream = i ∧ e.channel = c ∧ e.profile = k ∧ e.fragment = n := by
  simp [Edit.names, and_assoc]

theorem Edit.removeAll_names_iff (i : StreamId) (e : MapEntry) (c : ChannelId) (k : Slot) :
    (Edit.removeAll c k).names i e = true ↔ e.stream = i ∧ e.channel = c ∧ e.profile = k := by
  simp [Edit.names, and_assoc]

theorem entriesUnder_eq_filter (m : List MapEntry) (c : ChannelId) (k : Slot) :
    entriesUnder m c k = m.filter fun e => e.channel = c ∧ e.profile = k := by
  unfold entriesUnder
  refine List.filter_congr fun e _ => ?_
  simp [Bool.beq_eq_decide_eq, Bool.decide_and]

/-- R86: a channel that no entry names has width 0. -/
theorem mapWidth_of_no_entry {m : List MapEntry} {c : ChannelId} (h : ∀ e ∈ m, e.channel ≠ c) : mapWidth m c = 0 := by
  have hnone : m.find? (fun e => e.channel == c) = none := List.find?_eq_none.2 fun e he => by simpa using h e he
  rw [mapWidth, hnone]

/-- R86: where every profile gives one sum, that is the width. -/
theorem mapWidth_of_one_sum {m : List MapEntry} {c : ChannelId}
    (h : ∀ a ∈ m, ∀ b ∈ m, a.channel = c → b.channel = c →
      widthSum (entriesUnder m c a.profile) = widthSum (entriesUnder m c b.profile))
    {e : MapEntry} (he : e ∈ m) (hc : e.channel = c) : mapWidth m c = widthSum (entriesUnder m c e.profile) := by
  unfold mapWidth
  cases hfound : m.find? fun e => e.channel == c with
  | none => exact absurd (beq_iff_eq.2 hc) (List.find?_eq_none.1 hfound e he)
  | some x => exact h x (List.mem_of_find?_eq_some hfound) e he (by simpa using List.find?_some hfound) hc

/-- R86: a width that changes breaks the run of agreement. -/
theorem Channel.setWidth_eq (ch : Channel) (w : Nat) :
    ch.setWidth w = if ch.width ≠ w then { ch with width := w, candidate := none, agree := 0 } else ch := by
  rw [Channel.setWidth, ite_not]
  rfl

theorem State.applyCommit_eq (s : State) (i : StreamId) : s.applyCommit i = { s with
    map := applyEdits i s.map (s.stage.get i).edits
    stage := s.stage.set i ⟨[], false, 0⟩
    channels := Vector.ofFn fun c : ChannelId => (s.channel c).map fun ch =>
      if ch.config.stream = i ∧ ch.width ≠ mapWidth (applyEdits i s.map (s.stage.get i).edits) c then
        { ch with width := mapWidth (applyEdits i s.map (s.stage.get i).edits) c, candidate := none, agree := 0 }
      else ch } := by
  simp only [ite_and, ← Channel.setWidth_eq]
  rfl

@[simp] theorem State.applyCommit_map (s : State) (i : StreamId) :
    (s.applyCommit i).map = applyEdits i s.map (s.stage.get i).edits := by rw [State.applyCommit_eq]

@[simp] theorem State.applyCommit_stage (s : State) (i : StreamId) :
    (s.applyCommit i).stage = s.stage.set i .reset := by rw [State.applyCommit_eq]; rfl

/-- R87: a pending commit settled is applied, with its MAP_APPLIED. -/
theorem State.settlePending_eq (s : State) (i : StreamId) :
    s.settlePending i = if (s.stage.get i).pending then
      (s.applyCommit i).raiseAll [.mapApplied i (s.stage.get i).edits.length
        (applyEdits i s.map (s.stage.get i).edits).length]
      else s := by
  rw [State.settlePending, State.mapApplied, State.applyCommit_map]

/-- Settles O39: the application is a fold of the edits, and the widths it sets are the sums under the map it gives. -/
theorem commitApplied : Obligations.CommitApplied := by
  refine ⟨fun i m e c k n a b => ⟨rfl, List.foldl_append, rfl, ?_, ?_⟩, fun m c => mapWidth_of_no_entry,
    ?_, fun s i => ⟨s.applyCommit_eq i, ?_⟩⟩
  · exact List.filter_congr fun x _ => Bool.eq_iff_iff.2 (by
      simp only [Bool.not_eq_true', ← Bool.not_eq_true, Edit.remove_names_iff, decide_eq_true_iff])
  · exact List.filter_congr fun x _ => Bool.eq_iff_iff.2 (by
      simp only [Bool.not_eq_true', ← Bool.not_eq_true, Edit.removeAll_names_iff, decide_eq_true_iff])
  · intro m c width hsame e he hc
    have hwidth (k : Slot) : width k = widthSum (entriesUnder m c k) := by rw [entriesUnder_eq_filter]; rfl
    simp only [hwidth] at hsame ⊢
    exact mapWidth_of_one_sum hsame he hc
  · rw [State.settlePending_eq, State.applyCommit_eq]

/-! ### The checks of one edit (R77, R78) -/

theorem State.editFails_remove (s : State) (i : StreamId) (growth : Int) (copy : List MapEntry) (c : ChannelId) (k : Slot)
    (n : Nat) : s.editFails i growth copy (.remove c k n)
      = if ∃ e ∈ copy, e.stream = i ∧ e.channel = c ∧ e.profile = k ∧ e.fragment = n then none else some .noEntry := by
  simp only [State.editFails, List.any_eq_true, Edit.remove_names_iff]

theorem State.editFails_removeAll (s : State) (i : StreamId) (growth : Int) (copy : List MapEntry) (c : ChannelId)
    (k : Slot) : s.editFails i growth copy (.removeAll c k)
      = if ∃ e ∈ copy, e.stream = i ∧ e.channel = c ∧ e.profile = k then none else some .noEntry := by
  simp only [State.editFails, List.any_eq_true, Edit.removeAll_names_iff]

theorem State.editFails_add_unbound {s : State} {i : StreamId} {e : MapEntry}
    (h : ∀ ch, s.channel e.channel = some ch → ch.config.stream ≠ i) (growth : Int) (copy : List MapEntry) :
    s.editFails i growth copy (.add e) = some .noChannel := by
  have hbound : s.boundTo e.channel i ≠ true := fun hb => by
    obtain ⟨ch, hch, hstream⟩ := (s.boundTo_iff _ _).1 hb
    exact h ch hch hstream
  rw [State.editFails, State.addFails, if_neg hbound]

theorem State.editFails_add_unloaded {s : State} {i : StreamId} {e : MapEntry} {ch : Channel}
    (hc : s.channel e.channel = some ch) (hi : ch.config.stream = i) (hp : s.profile e.profile = none) (growth : Int)
    (copy : List MapEntry) : s.editFails i growth copy (.add e) = some .noProfile := by
  rw [State.editFails, State.addFails, if_pos ((s.boundTo_iff _ _).2 ⟨ch, hc, hi⟩), hp]

theorem State.editFails_add_loaded {s : State} {i : StreamId} {e : MapEntry} {ch : Channel} {p : Profile}
    (hc : s.channel e.channel = some ch) (hi : ch.config.stream = i) (hp : s.profile e.profile = some p) (growth : Int)
    (copy : List MapEntry) : s.editFails i growth copy (.add e) = addFailsProfile growth copy e p := by
  rw [State.editFails, State.addFails, if_pos ((s.boundTo_iff _ _).2 ⟨ch, hc, hi⟩), hp]

/-- R77: checks 3 to 7 of an ADD, in order. -/
theorem addFailsProfile_eq (growth : Int) (copy : List MapEntry) (e : MapEntry) (p : Profile) :
    addFailsProfile growth copy e p
      = if e.position ≤ p.syncLength / p.wordLength ∨ p.frameWords < e.position
            ∨ (p.check = .crc16 ∧ e.position = p.frameWords) then some .position
        else if p.dataBits < e.offset + e.width then some .bits
        else if e.first < p.idBase ∨ p.idBase + p.majorLength - 1 < e.first ∨ e.step = 0 ∨ p.majorLength < e.step then
          some .selector
        else if ∃ x ∈ copy, x.channel = e.channel ∧ x.profile = e.profile ∧ x.fragment = e.fragment then some .duplicate
        else if (512 : Int) < copy.length + 1 + growth then some .capacity
        else none := by
  have hselector : (p.idInRange e.first = false ∨ e.step = 0 ∨ p.majorLength < e.step)
      ↔ (e.first < p.idBase ∨ p.idBase + p.majorLength - 1 < e.first ∨ e.step = 0 ∨ p.majorLength < e.step) := by
    simp only [Profile.idInRange, decide_eq_false_iff_not]
    omega
  have hduplicate : copy.any (fun x => x.sameKey e) = true
      ↔ ∃ x ∈ copy, x.channel = e.channel ∧ x.profile = e.profile ∧ x.fragment = e.fragment := by
    simp [MapEntry.sameKey, and_assoc]
  simp only [addFailsProfile, hselector, hduplicate]
  rfl

/-- R79: the growth that an edit of a stream is checked with. -/
theorem State.otherGrowth_eq (s : State) (i : StreamId) : s.otherGrowth i = match i with
    | .s0 => if s.stage.s1.pending then s.stage.s1.growth else 0
    | .s1 => if s.stage.s0.pending then s.stage.s0.growth else 0 := by
  cases i <;> rfl

/-- R76: the first edit that fails ends the validation. -/
theorem State.validate_edit_fails {s : State} {i : StreamId} {before after : List Edit} {edit : Edit} {reason : MapReason}
    (hedits : (s.stage.get i).edits = before ++ edit :: after) (hbefore : s.EditsPass i (s.otherGrowth i) s.map before)
    (hfails : s.editFails i (s.otherGrowth i) (applyEdits i s.map before) edit = some reason) :
    s.validate i = some ⟨before.length, reason, some edit.channel, none, none⟩ := by
  have hchecked := State.checkEdits_fail (after := after) hbefore hfails 0
  rw [Nat.zero_add] at hchecked
  unfold State.validate
  rw [hedits]
  split
  · rename_i f copy hf
    rw [hf] at hchecked
    exact hchecked
  · rename_i copy hf
    rw [hf] at hchecked
    cases hchecked

/-- Settles O40: each edit's checks are the model's in the statement's order, and the checking stops at the first failure. -/
theorem editsChecked : Obligations.EditsChecked := by
  refine ⟨fun s i growth copy c k n => ⟨s.editFails_remove i growth copy c k n, s.editFails_removeAll i growth copy c k⟩,
    fun s i growth copy e => ⟨fun hc => State.editFails_add_unbound hc growth copy, fun ch hc hi =>
      ⟨fun hp => State.editFails_add_unloaded hc hi hp growth copy, fun p hp => ?_⟩⟩, ?_⟩
  · rw [State.editFails_add_loaded hc hi hp, addFailsProfile_eq]
  · intro s i before after edit reason growth hedits hbefore hfails
    have hgrowth : growth = s.otherGrowth i := (s.otherGrowth_eq i).symm
    rw [hgrowth] at hbefore hfails
    exact State.validate_edit_fails hedits hbefore hfails

end Sys2Proof.Machine
end

section
/-! The extraction map (04): R76, R80, R81, which lists validate and which failure of the whole result is reported. -/

namespace Sys2Proof.Machine

/-! ### The first element that passes a test -/

theorem List.find?_eq_some_of_least {α : Type} {r : α → α → Prop} {l : List α} {f : α → Bool} {a : α}
    (hsorted : l.Pairwise r) (ha : a ∈ l) (hf : f a = true) (hleast : ∀ b ∈ l, r b a → f b = false) :
    l.find? f = some a := by
  induction l with
  | nil => simp at ha
  | cons x l ih =>
    obtain ⟨hx, hl⟩ := List.pairwise_cons.1 hsorted
    rcases List.mem_cons.1 ha with rfl | hal
    · exact List.find?_cons_of_pos hf
    · rw [List.find?_cons_of_neg (by simp [hleast x List.mem_cons_self (hx a hal)])]
      exact ih hl hal fun b hb => hleast b (List.mem_cons_of_mem _ hb)

theorem List.findSome?_eq_some_of_least {α β : Type} {r : α → α → Prop} {l : List α} {f : α → Option β} {a : α} {b : β}
    (hsorted : l.Pairwise r) (ha : a ∈ l) (hf : f a = some b) (hleast : ∀ x ∈ l, r x a → f x = none) :
    l.findSome? f = some b := by
  induction l with
  | nil => simp at ha
  | cons x l ih =>
    obtain ⟨hx, hl⟩ := List.pairwise_cons.1 hsorted
    rcases List.mem_cons.1 ha with rfl | hal
    · rw [List.findSome?_cons, hf]
    · rw [List.findSome?_cons, hleast x List.mem_cons_self (hx a hal)]
      exact ih hl hal fun y hy => hleast y (List.mem_cons_of_mem _ hy)

theorem allChannels_sorted : allChannels.Pairwise (· < ·) := List.pairwise_lt_finRange 128

theorem allSlots_sorted : allSlots.Pairwise (· < ·) := List.pairwise_lt_finRange 4

/-! ### The checks of a channel (R80) -/

theorem mem_entriesUnder {m : List MapEntry} {c : ChannelId} {k : Slot} {e : MapEntry} :
    e ∈ entriesUnder m c k ↔ e ∈ m ∧ e.channel = c ∧ e.profile = k := by
  simp [entriesUnder]

/-- R80: channel c is bound to stream i and its entries under some profile are not exactly its fragments. -/
def State.IncompleteAt (s : State) (i : StreamId) (copy : List MapEntry) (c : ChannelId) : Prop :=
  ∃ ch k, (s.channel c = some ch ∧ ch.config.stream = i) ∧ entriesUnder copy c k ≠ []
    ∧ ¬ ((entriesUnder copy c k).length = ch.config.fragments
      ∧ ∀ n < ch.config.fragments, ∃ e ∈ entriesUnder copy c k, e.fragment = n)

/-- R80: channel c is bound to stream i and its entries under some profile are out of order. -/
def State.OrderAt (s : State) (i : StreamId) (copy : List MapEntry) (c : ChannelId) : Prop :=
  ∃ ch k, (s.channel c = some ch ∧ ch.config.stream = i) ∧ ∃ a ∈ entriesUnder copy c k, ∃ b ∈ entriesUnder copy c k,
    ¬ (a.first = b.first ∧ a.step = b.step ∧ (a.fragment < b.fragment → a.position < b.position))

/-- R80: channel c is bound to stream i and its total is above 32 or differs between two profiles. -/
def State.WideAt (s : State) (i : StreamId) (copy : List MapEntry) (c : ChannelId) : Prop :=
  ∃ ch k, (s.channel c = some ch ∧ ch.config.stream = i) ∧ entriesUnder copy c k ≠ []
    ∧ (32 < widthSum (entriesUnder copy c k)
      ∨ ∃ j, entriesUnder copy c j ≠ [] ∧ widthSum (entriesUnder copy c j) ≠ widthSum (entriesUnder copy c k))

theorem incompleteUnder_iff (fragments : Nat) (es : List MapEntry) : incompleteUnder fragments es = true
    ↔ ¬ (es.length = fragments ∧ ∀ n < fragments, ∃ e ∈ es, e.fragment = n) := by
  simp only [incompleteUnder, Bool.not_eq_true', ← Bool.not_eq_true, Bool.and_eq_true, beq_iff_eq, List.all_eq_true,
    List.mem_range, List.any_eq_true]

theorem orderBroken_iff (es : List MapEntry) : orderBroken es = true
    ↔ ∃ a ∈ es, ∃ b ∈ es, ¬ (a.first = b.first ∧ a.step = b.step ∧ (a.fragment < b.fragment → a.position < b.position)) := by
  simp [orderBroken, imp_iff_not_or, and_assoc]

theorem State.mem_checkedChannels {s : State} {i : StreamId} {copy : List MapEntry} {c : ChannelId} :
    c ∈ s.checkedChannels i copy
      ↔ (∃ ch, s.channel c = some ch ∧ ch.config.stream = i) ∧ ∃ e ∈ copy, e.channel = c := by
  simp [State.checkedChannels, allChannels, s.boundTo_iff]

theorem entry_of_entriesUnder_ne_nil {m : List MapEntry} {c : ChannelId} {k : Slot} (h : entriesUnder m c k ≠ []) :
    ∃ e ∈ m, e.channel = c := by
  obtain ⟨e, he⟩ := List.exists_mem_of_ne_nil _ h
  obtain ⟨hm, hc, -⟩ := mem_entriesUnder.1 he
  exact ⟨e, hm, hc⟩

theorem State.incompleteAt_iff (s : State) (i : StreamId) (copy : List MapEntry) (c : ChannelId) :
    s.IncompleteAt i copy c ↔ c ∈ s.checkedChannels i copy ∧ s.incomplete copy c = true := by
  rw [State.mem_checkedChannels, State.incomplete]
  constructor
  · rintro ⟨ch, k, ⟨hc, hi⟩, hentries, hbroken⟩
    refine ⟨⟨⟨ch, hc, hi⟩, entry_of_entriesUnder_ne_nil hentries⟩, ?_⟩
    rw [hc]
    refine List.any_eq_true.2 ⟨k, List.mem_finRange k, ?_⟩
    rw [(incompleteUnder_iff _ _).2 hbroken]
    simpa using hentries
  · rintro ⟨⟨⟨ch, hc, hi⟩, -⟩, hfails⟩
    rw [hc] at hfails
    obtain ⟨k, -, hk⟩ := List.any_eq_true.1 hfails
    obtain ⟨hentries, hbroken⟩ := Bool.and_eq_true_iff.1 hk
    exact ⟨ch, k, ⟨hc, hi⟩, by simpa using hentries, (incompleteUnder_iff _ _).1 hbroken⟩

theorem State.orderAt_iff (s : State) (i : StreamId) (copy : List MapEntry) (c : ChannelId) :
    s.OrderAt i copy c ↔ c ∈ s.checkedChannels i copy ∧ orderFails copy c = true := by
  rw [State.mem_checkedChannels, orderFails, List.any_eq_true]
  constructor
  · rintro ⟨ch, k, hbound, hbroken⟩
    obtain ⟨a, ha, -⟩ := id hbroken
    exact ⟨⟨⟨ch, hbound⟩, entry_of_entriesUnder_ne_nil (List.ne_nil_of_mem ha)⟩, k, List.mem_finRange k,
      (orderBroken_iff _).2 hbroken⟩
  · rintro ⟨⟨⟨ch, hbound⟩, -⟩, k, -, hbroken⟩
    exact ⟨ch, k, hbound, (orderBroken_iff _).1 hbroken⟩

theorem widthFails_iff (copy : List MapEntry) (c : ChannelId) : widthFails copy c = true
    ↔ ∃ k, entriesUnder copy c k ≠ [] ∧ (32 < widthSum (entriesUnder copy c k)
      ∨ ∃ j, entriesUnder copy c j ≠ [] ∧ widthSum (entriesUnder copy c j) ≠ widthSum (entriesUnder copy c k)) := by
  have hmem (k : Slot) : k ∈ allSlots := List.mem_finRange k
  have hnonempty (k : Slot) : 32 < widthSum (entriesUnder copy c k) → entriesUnder copy c k ≠ [] := by
    intro hwide hnil
    rw [hnil] at hwide
    exact absurd hwide (by decide)
  simp only [widthFails, List.any_eq_true, Bool.or_eq_true, Bool.and_eq_true, decide_eq_true_iff, hmem, true_and,
    Bool.not_eq_true', List.isEmpty_eq_false_iff]
  refine exists_congr fun k => ⟨?_, ?_⟩
  · rintro (hwide | ⟨j, ⟨hk, hj⟩, hne⟩)
    · exact ⟨hnonempty k hwide, .inl hwide⟩
    · exact ⟨hk, .inr ⟨j, hj, hne.symm⟩⟩
  · rintro ⟨hk, hwide | ⟨j, hj, hne⟩⟩
    · exact .inl hwide
    · exact .inr ⟨j, ⟨hk, hj⟩, hne.symm⟩

theorem State.wideAt_iff (s : State) (i : StreamId) (copy : List MapEntry) (c : ChannelId) :
    s.WideAt i copy c ↔ c ∈ s.checkedChannels i copy ∧ widthFails copy c = true := by
  rw [State.mem_checkedChannels, widthFails_iff]
  constructor
  · rintro ⟨ch, k, hbound, hentries, hwide⟩
    exact ⟨⟨⟨ch, hbound⟩, entry_of_entriesUnder_ne_nil hentries⟩, k, hentries, hwide⟩
  · rintro ⟨⟨⟨ch, hbound⟩, -⟩, k, hwide⟩
    exact ⟨ch, k, hbound, hwide⟩

/-! ### The first channel that fails a check -/

theorem State.checkedChannels_find_none {s : State} {i : StreamId} {copy : List MapEntry} {f : ChannelId → Bool}
    {P : ChannelId → Prop} (h : ∀ c, P c ↔ c ∈ s.checkedChannels i copy ∧ f c = true) :
    (s.checkedChannels i copy).find? f = none ↔ ∀ c, ¬ P c := by
  simp only [List.find?_eq_none, h, not_and]

theorem State.checkedChannels_find_some {s : State} {i : StreamId} {copy : List MapEntry} {f : ChannelId → Bool}
    {P : ChannelId → Prop} (h : ∀ c, P c ↔ c ∈ s.checkedChannels i copy ∧ f c = true) {c : ChannelId} (hc : P c)
    (hleast : ∀ d < c, ¬ P d) : (s.checkedChannels i copy).find? f = some c := by
  obtain ⟨hmem, hf⟩ := (h c).1 hc
  exact List.find?_eq_some_of_least (allChannels_sorted.filter _) hmem hf fun d hd hlt =>
    Bool.eq_false_iff.2 fun hfd => hleast d hlt ((h d).2 ⟨hd, hfd⟩)

section
variable {s : State} {i : StreamId} {copy : List MapEntry}

theorem State.wholeFails_of_incomplete {c : ChannelId} (hc : s.IncompleteAt i copy c)
    (hleast : ∀ d < c, ¬ s.IncompleteAt i copy d) : s.wholeFails i copy = some (.incomplete, c) := by
  rw [State.wholeFails, State.checkedChannels_find_some (s.incompleteAt_iff i copy) hc hleast]

theorem State.wholeFails_of_order {c : ChannelId} (hcomplete : ∀ d, ¬ s.IncompleteAt i copy d) (hc : s.OrderAt i copy c)
    (hleast : ∀ d < c, ¬ s.OrderAt i copy d) : s.wholeFails i copy = some (.order, c) := by
  rw [State.wholeFails, (State.checkedChannels_find_none (s.incompleteAt_iff i copy)).2 hcomplete,
    State.checkedChannels_find_some (s.orderAt_iff i copy) hc hleast]

theorem State.wholeFails_of_wide {c : ChannelId} (hcomplete : ∀ d, ¬ s.IncompleteAt i copy d)
    (hordered : ∀ d, ¬ s.OrderAt i copy d) (hc : s.WideAt i copy c) (hleast : ∀ d < c, ¬ s.WideAt i copy d) :
    s.wholeFails i copy = some (.width, c) := by
  rw [State.wholeFails, (State.checkedChannels_find_none (s.incompleteAt_iff i copy)).2 hcomplete,
    (State.checkedChannels_find_none (s.orderAt_iff i copy)).2 hordered,
    State.checkedChannels_find_some (s.wideAt_iff i copy) hc hleast]

theorem State.wholeFails_eq_none_iff :
    s.wholeFails i copy = none ↔ ∀ c, ¬ s.IncompleteAt i copy c ∧ ¬ s.OrderAt i copy c ∧ ¬ s.WideAt i copy c := by
  rw [forall_and, forall_and, ← State.checkedChannels_find_none (s.incompleteAt_iff i copy),
    ← State.checkedChannels_find_none (s.orderAt_iff i copy), ← State.checkedChannels_find_none (s.wideAt_iff i copy),
    State.wholeFails]
  cases (s.checkedChannels i copy).find? (s.incomplete copy) with
  | some c => simp
  | none =>
    cases (s.checkedChannels i copy).find? (orderFails copy) with
    | some c => simp
    | none => cases (s.checkedChannels i copy).find? (widthFails copy) <;> simp

end

/-! ### The channels that complete at one ID (R81) -/

/-- R4: id is one of the IDs of the LOADED profile of slot k. -/
def State.IsId (s : State) (k : Slot) (id : Nat) : Prop :=
  ∃ p, s.profile k = some p ∧ p.idBase ≤ id ∧ id < p.idBase + p.majorLength

theorem Profile.mem_ids {p : Profile} {id : Nat} : id ∈ p.ids ↔ p.idBase ≤ id ∧ id < p.idBase + p.majorLength := by
  simp only [Profile.ids, List.mem_map, List.mem_range]
  constructor
  · rintro ⟨n, hn, rfl⟩
    omega
  · rintro ⟨hbase, hlt⟩
    exact ⟨id - p.idBase, by omega, by omega⟩

theorem Profile.ids_sorted (p : Profile) : p.ids.Pairwise (· < ·) :=
  List.pairwise_lt_range.map _ fun _ _ h => Nat.add_lt_add_right h _

theorem coveringCount_eq (i : StreamId) (copy : List MapEntry) (k : Slot) (id : Nat) :
    coveringCount i copy k id = (allChannels.filter fun c =>
      ∃ e ∈ copy, e.stream = i ∧ e.profile = k ∧ e.channel = c ∧ e.first ≤ id ∧ e.step ∣ id - e.first).length := by
  rw [coveringCount, List.countP_eq_length_filter]
  congr 1
  refine List.filter_congr fun c _ => Bool.eq_iff_iff.2 ?_
  simp only [List.any_eq_true, Bool.and_eq_true, beq_iff_eq, MapEntry.covers_iff, decide_eq_true_iff, and_assoc]

theorem entry_of_coveringCount {i : StreamId} {copy : List MapEntry} {k : Slot} {id : Nat}
    (h : 0 < coveringCount i copy k id) : copy.any (fun e => e.stream == i && e.profile == k) = true := by
  obtain ⟨c, -, hc⟩ := List.countP_pos_iff.1 h
  obtain ⟨e, he, hcovers⟩ := List.any_eq_true.1 hc
  simp only [Bool.and_eq_true] at hcovers
  exact List.any_eq_true.2 ⟨e, he, Bool.and_eq_true_iff.2 hcovers.1.1⟩

/-- R81: the first ID of one profile that too many channels cover. -/
def State.stagingFailsAt (s : State) (i : StreamId) (copy : List MapEntry) (k : Slot) : Option (Slot × Nat) :=
  if copy.any (fun e => e.stream == i && e.profile == k) then
    match s.profile k with
    | none => none
    | some p => (p.ids.find? fun id => decide (Config.stagingLimit < coveringCount i copy k id)).map fun id => (k, id)
  else none

theorem State.stagingFails_eq (s : State) (i : StreamId) (copy : List MapEntry) :
    s.stagingFails i copy = allSlots.findSome? (s.stagingFailsAt i copy) := rfl

theorem State.stagingFailsAt_eq_none_iff (s : State) (i : StreamId) (copy : List MapEntry) (k : Slot) :
    s.stagingFailsAt i copy k = none ↔ ∀ id, s.IsId k id → coveringCount i copy k id ≤ 64 := by
  unfold State.stagingFailsAt
  split
  · cases hp : s.profile k with
    | none => simp [State.IsId, hp]
    | some p =>
      simp only [Option.map_eq_none_iff, List.find?_eq_none, Profile.mem_ids, State.IsId, hp, Option.some.injEq,
        exists_eq_left']
      refine forall_congr' fun id => imp_congr_right fun _ => ?_
      rw [decide_eq_true_iff, Nat.not_lt]
      rfl
  · rename_i hnone
    refine ⟨fun _ id _ => ?_, fun _ => rfl⟩
    rcases Nat.eq_zero_or_pos (coveringCount i copy k id) with hzero | hpos
    · omega
    · exact absurd (entry_of_coveringCount hpos) hnone

theorem State.stagingFailsAt_eq_some {s : State} {i : StreamId} {copy : List MapEntry} {k : Slot} {id : Nat}
    (hid : s.IsId k id) (hover : 64 < coveringCount i copy k id)
    (hleast : ∀ id' < id, s.IsId k id' → coveringCount i copy k id' ≤ 64) : s.stagingFailsAt i copy k = some (k, id) := by
  obtain ⟨p, hp, hrange⟩ := hid
  have hfound := List.find?_eq_some_of_least p.ids_sorted (Profile.mem_ids.2 hrange)
    (f := fun id => decide (Config.stagingLimit < coveringCount i copy k id)) (decide_eq_true hover)
    fun id' hid' hlt => decide_eq_false (Nat.not_lt.2 (hleast id' hlt ⟨p, hp, Profile.mem_ids.1 hid'⟩))
  rw [State.stagingFailsAt, if_pos (entry_of_coveringCount (Nat.zero_lt_of_lt hover)), hp]
  dsimp only
  rw [hfound, Option.map_some]

theorem State.stagingFails_eq_none_iff (s : State) (i : StreamId) (copy : List MapEntry) :
    s.stagingFails i copy = none ↔ ∀ k id, s.IsId k id → coveringCount i copy k id ≤ 64 := by
  rw [State.stagingFails_eq, List.findSome?_eq_none_iff]
  simp only [allSlots, List.mem_finRange, true_imp_iff, State.stagingFailsAt_eq_none_iff]

theorem State.stagingFails_eq_some {s : State} {i : StreamId} {copy : List MapEntry} {k : Slot} {id : Nat}
    (hid : s.IsId k id) (hover : 64 < coveringCount i copy k id)
    (hleast : ∀ j id', j < k ∨ (j = k ∧ id' < id) → s.IsId j id' → coveringCount i copy j id' ≤ 64) :
    s.stagingFails i copy = some (k, id) := by
  rw [State.stagingFails_eq]
  exact List.findSome?_eq_some_of_least allSlots_sorted (List.mem_finRange k)
    (State.stagingFailsAt_eq_some hid hover fun id' hlt => hleast k id' (.inr ⟨rfl, hlt⟩))
    fun j _ hlt => (s.stagingFailsAt_eq_none_iff i copy j).2 fun id' => hleast j id' (.inl hlt)

/-! ### What validation accepts and what it reports (R76) -/

theorem State.validate_eq_of_pass {s : State} {i : StreamId}
    (h : s.EditsPass i (s.otherGrowth i) s.map (s.stage.get i).edits) :
    s.validate i =
      let copy := applyEdits i s.map (s.stage.get i).edits
      let last := (s.stage.get i).edits.length - 1
      match s.wholeFails i copy with
      | some (reason, c) => some ⟨last, reason, some c, none, none⟩
      | none => (s.stagingFails i copy).map fun found => ⟨last, .staging, none, some found.1, some found.2⟩ := by
  rw [State.validate, State.checkEdits_pass h 0]
  dsimp only
  cases s.wholeFails i (applyEdits i s.map (s.stage.get i).edits) with
  | some found => rfl
  | none => cases s.stagingFails i (applyEdits i s.map (s.stage.get i).edits) <;> rfl

theorem State.validate_eq_none_iff (s : State) (i : StreamId) :
    s.validate i = none ↔ s.EditsPass i (s.otherGrowth i) s.map (s.stage.get i).edits
      ∧ s.wholeFails i (applyEdits i s.map (s.stage.get i).edits) = none
      ∧ s.stagingFails i (applyEdits i s.map (s.stage.get i).edits) = none := by
  constructor
  · intro hnone
    have hpass := State.editsPass_of_validate hnone
    refine ⟨hpass, ?_⟩
    rw [State.validate_eq_of_pass hpass] at hnone
    dsimp only at hnone
    cases hwhole : s.wholeFails i (applyEdits i s.map (s.stage.get i).edits) with
    | some found => simp [hwhole] at hnone
    | none => simpa [hwhole] using hnone
  · rintro ⟨hpass, hwhole, hstaging⟩
    rw [State.validate_eq_of_pass hpass]
    simp only [hwhole, hstaging, Option.map_none]

/-- Settles O41: each check of the whole result is a search through channels, or profiles and IDs, in increasing order. -/
theorem validCommits : Obligations.ValidCommits := by
  intro s i edits growth editsPass copy under sum bound covering isId incomplete order wide
  have hgrowth : growth = s.otherGrowth i := (s.otherGrowth_eq i).symm
  have hpass : editsPass ↔ s.EditsPass i (s.otherGrowth i) s.map edits := by rw [← hgrowth]; rfl
  have hincomplete (c : ChannelId) : incomplete c ↔ s.IncompleteAt i copy c := by
    simp only [State.IncompleteAt, entriesUnder_eq_filter]; rfl
  have horder (c : ChannelId) : order c ↔ s.OrderAt i copy c := by
    simp only [State.OrderAt, entriesUnder_eq_filter]; rfl
  have hwide (c : ChannelId) : wide c ↔ s.WideAt i copy c := by
    simp only [State.WideAt, entriesUnder_eq_filter]; rfl
  have hcovering (k : Slot) (id : Nat) : covering k id = coveringCount i copy k id := (coveringCount_eq i copy k id).symm
  simp only [hpass, hincomplete, horder, hwide, hcovering]
  refine ⟨?_, fun _ hedits => ?_⟩
  · rw [State.validate_eq_none_iff, State.wholeFails_eq_none_iff, State.stagingFails_eq_none_iff]
    rfl
  · rw [State.validate_eq_of_pass hedits]
    dsimp only
    refine ⟨fun c hc hleast => ?_, fun c hnone hc hleast => ?_, fun c hnone hc hleast => ?_,
      fun k id hnone hid hover hleast => ?_⟩
    · rw [State.wholeFails_of_incomplete hc hleast]
    · rw [State.wholeFails_of_order hnone hc hleast]
    · rw [State.wholeFails_of_wide (fun d => (hnone d).1) (fun d => (hnone d).2) hc hleast]
    · rw [State.wholeFails_eq_none_iff.2 hnone, State.stagingFails_eq_some hid hover hleast, Option.map_some]

end Sys2Proof.Machine
end

section
/-! What a stop of extraction does to the whole part (R64, R112, R113, R85). -/

namespace Sys2Proof.Machine

/-- The application of a commit reads nothing that raises change. -/
theorem State.applyCommit_raiseAll (s : State) (i : StreamId) (rs : List Raise) :
    (s.raiseAll rs).applyCommit i = (s.applyCommit i).raiseAll rs := by
  rw [State.raiseAll_eq s rs, State.raiseAll_of_alike (s := s.applyCommit i) (u := s) ⟨rfl, rfl, rfl, rfl, rfl⟩]
  rfl

/-- R113: an entry to STALE, by the value state. -/
theorem Channel.enterStale_eq (ch : Channel) (why : StaleReason) : ch.enterStale why = match ch.data with
    | .current r => { ch with data := .stale why r, staleTimer := none, candidate := none, agree := 0 }
    | _ => ch := by
  unfold Channel.enterStale
  cases ch.data <;> rfl

theorem Channel.note_stale (ch : Channel) (c : ChannelId) (why : StaleReason) (sequence : BitVec 32) (stamp : Time) :
    ch.note (.stale c why sequence stamp)
      = if ch.settings.noticeSet.getLsbD 3 = true then [.stale c why sequence stamp] else [] := rfl

theorem State.staleRaises_eq (s : State) (i : StreamId) (why : StaleReason) :
    s.staleRaises i why = (List.finRange 128).flatMap fun c => match s.channel c with
      | some ch => match ch.data with
        | .current r => if ch.config.stream = i ∧ ch.settings.noticeSet.getLsbD 3 = true then
            [.stale c why r.sequence r.stamp] else []
        | _ => []
      | none => [] := by
  unfold State.staleRaises
  refine congrArg (List.flatMap · (List.finRange 128)) (funext fun c => ?_)
  cases s.channel c with
  | none => rfl
  | some ch =>
    simp only [Channel.staleRaise, Channel.note_stale, ite_and]
    cases ch.data <;> simp

/-- R112: the channels as a stop leaves them before the map settles. -/
def State.staled (s : State) (i : StreamId) (why : StaleReason) : State :=
  (s.setTrk i { s.trk.get i with assembly := [], staging := [] }).mapChannels fun _ ch =>
    if ch.config.stream = i then ch.enterStale why else ch

/-- R64: the raises come after every change, the STALE raises before MAP_APPLIED. -/
theorem State.extractionStop_raises (s : State) (i : StreamId) (why : StaleReason) :
    s.extractionStop i why = if (s.stage.get i).pending then
      ((s.staled i why).applyCommit i).raiseAll (s.staleRaises i why ++ [s.mapApplied i])
    else (s.staled i why).raiseAll (s.staleRaises i why) := by
  have hstale : (s.setTrk i { s.trk.get i with assembly := [], staging := [] }).staleStream i why
      = (s.staled i why).raiseAll (s.staleRaises i why) := rfl
  rw [State.extractionStop, hstale, State.settlePending_eq, State.raiseAll_append, State.applyCommit_raiseAll,
    State.raiseAll_stage, State.raiseAll_map]
  rfl

/-- R86, R113: a channel of the stream goes STALE and then takes the width of the new map. -/
theorem State.staled_applyCommit_channels (s : State) (i : StreamId) (why : StaleReason) :
    ((s.staled i why).applyCommit i).channels = Vector.ofFn fun c : ChannelId => (s.channel c).map fun ch =>
      if ch.config.stream = i then
        (ch.enterStale why).setWidth (mapWidth (applyEdits i s.map (s.stage.get i).edits) c)
      else ch := by
  have hchannels : ((s.staled i why).applyCommit i).channels = Vector.ofFn fun c : ChannelId =>
      ((s.staled i why).channel c).map fun ch => if ch.config.stream = i then
        ch.setWidth (mapWidth (applyEdits i s.map (s.stage.get i).edits) c) else ch := rfl
  rw [hchannels]
  refine congrArg Vector.ofFn (funext fun c => ?_)
  rw [State.staled, State.channel_mapChannels]
  change ((s.channel c).map _).map _ = _
  rw [Option.map_map]
  refine congrArg (Option.map · (s.channel c)) (funext fun ch => ?_)
  simp only [Function.comp_apply]
  by_cases hi : ch.config.stream = i
  · rw [if_pos hi, if_pos hi, if_pos (by rw [Channel.enterStale_config, hi])]
  · rw [if_neg hi, if_neg hi, if_neg hi]

/-- Settles O23: the stop is its changes followed by its raises; the map settles only where a commit is pending. -/
theorem extractionStops : Obligations.ExtractionStops := by
  intro s i why pending map stale resized
  have hstale (ch : Channel) : stale ch = ch.enterStale why := (ch.enterStale_eq why).symm
  rw [State.extractionStop_raises, State.staleRaises_eq]
  cases hp : (s.stage.get i).pending with
  | false =>
    have hpending : pending = false := hp
    simp only [resized, map, hpending, hstale, List.append_nil, Bool.false_eq_true, if_false, false_and]
    rfl
  | true =>
    have hpending : pending = true := hp
    have hmap : map = applyEdits i s.map (s.stage.get i).edits := if_pos hpending
    simp only [resized, hpending, hstale, hmap, if_true, true_and, ← Channel.setWidth_eq]
    rw [← State.staled_applyCommit_channels]
    rfl

end Sys2Proof.Machine
end

section
/-! The stream requests (02, 10.8): R34 to R37. -/

namespace Sys2Proof.Machine

/-! ### The raises of a change of the records (R38) -/

/-- R38: the report that follows a change of the synchronizer carries the new record. -/
theorem State.raiseSync_setSyn (s : State) (i : StreamId) (y : Syn) (why : SyncReason) :
    (s.setSyn i y).raiseSync i why = State.raiseAll { s with syn := s.syn.set i { y with lastReason := some why } }
      [.syncState i ⟨y.mode, y.phase, (s.trk.get i).major, y.selected, y.polarity, why⟩] := by
  simp only [State.raiseSync, State.syncReport, State.setSyn, PerStream.get_set, PerStream.set_set]

/-- R38: the report that follows a change of both records carries the new ones. -/
theorem State.raiseSync_setSyn_setTrk (s : State) (i : StreamId) (y : Syn) (t : Tracker) (why : SyncReason) :
    ((s.setSyn i y).setTrk i t).raiseSync i why = State.raiseAll { s with
      syn := s.syn.set i { y with lastReason := some why }
      trk := s.trk.set i t }
      [.syncState i ⟨y.mode, y.phase, t.major, y.selected, y.polarity, why⟩] := by
  simp only [State.raiseSync_setTrk, State.setSyn, PerStream.get_set, PerStream.set_set]

theorem State.extractionStop_inbound_set (s : State) (rest : List Request) (i : StreamId) (why : StaleReason) :
    ({ s with inbound := rest } : State).extractionStop i why = { s.extractionStop i why with inbound := rest } := by
  rw [State.extractionStop_raises, State.extractionStop_raises]
  cases hp : (s.stage.get i).pending with
  | true => exact (((s.staled i why).applyCommit i).raiseAll_inbound_set rest (s.staleRaises i why ++ [s.mapApplied i]))
  | false => exact ((s.staled i why).raiseAll_inbound_set rest (s.staleRaises i why))

/-! ### STREAM_ARM (R34, R35) -/

/-- R34, R35: the checks that read the part, and the arm. -/
def State.armStream (s : State) (f : ArmFields) : Reply × State :=
  if s.armNamesEmpty f.set then (.plain .noSuch, s)
  else if (s.syn.get (.ofField f.stream)).mode = .off ∨ (s.syn.get (.ofField f.stream)).mode = .stopped then
    (.ok [], (s.setSyn (.ofField f.stream) ((s.syn.get (.ofField f.stream)).arm f s.timebase)).raiseSync
      (.ofField f.stream) .armed)
  else (.plain .wrongState, s)

theorem runStreamArm_eq (p : List Byte) (s : State) :
    runStreamArm p s = unlessFailing (readArm p).failing s (s.armStream (readArm p)) := rfl

theorem readArm_payload (stream set : Byte) (window idle : BitVec 16) :
    readArm (stream :: set :: (be 2 window.toNat ++ be 2 idle.toNat))
      = ⟨stream.toNat, set.toNat, window.toNat, idle.toNat⟩ := by
  have hwindow : window.toNat < 256 ^ 2 := window.isLt
  have hidle : idle.toNat < 256 ^ 2 := idle.isLt
  simp (disch := omega) only [readArm, fieldAt_cons_zero, fieldAt_cons_of_pos, fieldAt_be_append, fieldAt_be_append_of_le,
    fieldAt_be, Nat.reduceSub]

theorem State.armNamesEmpty_iff (s : State) (set : Byte) :
    s.armNamesEmpty set.toNat = true ↔ ∃ k : Slot, set.getLsbD k.val = true ∧ s.profile k = none := by
  simp [State.armNamesEmpty, allSlots, BitVec.testBit_toNat]

/-- R34: the three range checks, and the arm. -/
theorem exec_streamArm {s : State} {q : Request} {rest : List Request} {tag stream set : Byte} {window idle : BitVec 16}
    (hq : q = ⟨0x10, tag, stream :: set :: (be 2 window.toNat ++ be 2 idle.toNat)⟩) (h : s.fresh q rest) :
    exec .streamArm s = .next (
      if 1 < stream.toNat then s.answered q rest .badValue [0]
      else if set = 0 ∨ 15 < set.toNat then s.answered q rest .badValue [1]
      else if idle = 0 ∨ 1000 < idle.toNat then s.answered q rest .badValue [3]
      else q.doneBy (({ s with inbound := rest } : State).armStream
        ⟨stream.toNat, set.toNat, window.toNat, idle.toNat⟩)) := by
  have hasks : s.asks q rest kindStreamArm := by
    subst hq
    exact ⟨h, rfl, rfl⟩
  rw [exec_asks rfl hasks, runStreamArm_eq, congrArg Request.payload hq, readArm_payload]
  simp only [ArmFields.failing, Request.doneBy_check, Request.doneBy_noCheck, Nat.lt_one_iff, bitVec_toNat_eq_zero_iff]
  rfl

theorem Syn.arm_eq (y : Syn) (stream : Nat) (set : Byte) (window idle : BitVec 16) (now : Time) :
    { y.arm ⟨stream, set.toNat, window.toNat, idle.toNat⟩ now with lastReason := some .armed } =
      { mode := .hunt, phase := .strict, armed := set.setWidth 4, selected := none, polarity := .normal,
        verifyCount := 0, missCount := 0, bitsToSync := 0, frameTime := none, window := window.toNat,
        windowTimer := if window = 0 then none else some now, idleTimeout := idle.toNat,
        idleTimer := some now, bitsFlowing := false, history := 0, fill := 0, locksAcquired := 0,
        framesProcessed := 0, framesCoasted := 0, checkFailures := 0, lastReason := some .armed } := by
  simp only [Syn.arm, startTimer, bitVec_toNat_eq_zero_iff, BitVec.ofNat_toNat]

/-- R35: an armed stream's record and its SYNC_STATE. -/
theorem Request.doneBy_armStream (s : State) (q : Request) (rest : List Request) {i : StreamId} {stream : Nat}
    (hi : stream = i.index) (set : Byte) (window idle : BitVec 16) :
    q.doneBy (({ s with inbound := rest } : State).armStream ⟨stream, set.toNat, window.toNat, idle.toNat⟩)
      = if ∃ k : Slot, set.getLsbD k.val = true ∧ s.profile k = none then s.answered q rest .noSuch []
        else if (s.syn.get i).mode = .off ∨ (s.syn.get i).mode = .stopped then State.answered
          (State.raiseAll { s with
            syn := s.syn.set i
              { mode := .hunt, phase := .strict, armed := set.setWidth 4, selected := none, polarity := .normal,
                verifyCount := 0, missCount := 0, bitsToSync := 0, frameTime := none, window := window.toNat,
                windowTimer := if window = 0 then none else some s.timebase, idleTimeout := idle.toNat,
                idleTimer := some s.timebase, bitsFlowing := false, history := 0, fill := 0, locksAcquired := 0,
                framesProcessed := 0, framesCoasted := 0, checkFailures := 0, lastReason := some .armed } }
            [.syncState i ⟨.hunt, .strict, (s.trk.get i).major, none, .normal, .armed⟩])
          q rest .ok []
        else s.answered q rest .wrongState [] := by
  have hempty := ({ s with inbound := rest } : State).armNamesEmpty_iff set
  rw [State.armStream, apply_ite q.doneBy, apply_ite q.doneBy, if_congr hempty rfl rfl]
  dsimp only
  rw [StreamId.ofField_eq hi, State.raiseSync_setSyn, Syn.arm_eq]
  congr 2
  exact congrArg (fun u => State.answer u q (.ok [])) (State.raiseAll_inbound_set { s with syn := _ } rest _)

/-! ### STREAM_DISARM (R36) -/

/-- R36: the record, the tracker's step 1 and the SYNC_STATE come before the extraction stop. -/
theorem State.disarm_eq (s : State) (i : StreamId) (why : SyncReason) :
    s.disarm i why = State.extractionStop
      (State.raiseAll { s with
        syn := s.syn.set i { (s.syn.get i).turnOff with lastReason := some why }
        trk := s.trk.set i (s.trk.get i).drop }
        [.syncState i ⟨.off, .strict, .noMajor, none, .normal, why⟩]) i .disarmed := by
  rw [State.disarm, State.raiseSync_setSyn_setTrk]
  rfl

theorem State.disarm_inbound_set (s : State) (rest : List Request) (i : StreamId) (why : SyncReason) :
    ({ s with inbound := rest } : State).disarm i why = { s.disarm i why with inbound := rest } := by
  rw [State.disarm_eq, State.disarm_eq, ← State.extractionStop_inbound_set, ← State.raiseAll_inbound_set]

theorem exec_streamDisarm {s : State} {q : Request} {rest : List Request} {tag stream : Byte}
    (hq : q = ⟨0x11, tag, [stream]⟩) (h : s.fresh q rest) :
    exec .streamDisarm s = .next (
      if 1 < stream.toNat then s.answered q rest .badValue [0]
      else if (s.syn.get (.ofField stream.toNat)).mode = .off then s.answered q rest .ok [0]
      else State.answered (s.disarm (.ofField stream.toNat) .disarmed) q rest .ok
        [BitVec.ofNat 8 (s.syn.get (.ofField stream.toNat)).mode.code]) := by
  have hasks : s.asks q rest kindStreamDisarm := by
    subst hq
    exact ⟨h, rfl, rfl⟩
  rw [exec_asks_stream (work := fun i t =>
    (.ok (byte (t.syn.get i).mode.code), if (t.syn.get i).mode = .off then t else t.disarm i .disarmed)) rfl
    (congrArg Request.payload hq) hasks]
  congr 2
  dsimp only [Request.doneBy]
  split_ifs with hoff
  · rw [hoff]
    rfl
  · rw [State.disarm_inbound_set]
    rfl

/-- Settles O22: the checks of both requests in order; the record an arm writes, and the disarm as its changes, its raise and
the stop. -/
theorem streamArmDisarm : Obligations.StreamArmDisarm := by
  refine ⟨?_, fun s tag stream rest hfresh => ⟨fun hbad => ?_, fun i hi => ?_⟩⟩
  · intro s tag stream set window idle rest q hfresh
    refine ⟨fun hbad => ?_, fun i hi => ?_⟩
    · rw [exec_streamArm rfl hfresh, if_pos hbad]
    · rw [exec_streamArm rfl hfresh, if_neg (StreamId.not_one_lt hi), Request.doneBy_armStream s q rest hi]
  · rw [exec_streamDisarm rfl hfresh, if_pos hbad]
  · rw [exec_streamDisarm rfl hfresh, if_neg (StreamId.not_one_lt hi), StreamId.ofField_eq hi, State.disarm_eq]
    rfl

/-! ### STREAM_STATUS (R37) -/

theorem absent_length (draw size : Nat) : (absent draw size).length = size := by
  simp [absent]

/-- R37, section 10.8: the bytes of a STREAM_STATUS reply, an absent frame time's six bytes being free. -/
theorem State.streamReport_eq (s : State) (i : StreamId) :
    s.streamReport i =
      [BitVec.ofNat 8 (s.syn.get i).mode.code, BitVec.ofNat 8 (s.syn.get i).phase.code, (s.syn.get i).armed.setWidth 8,
          BitVec.ofNat 8 (((s.syn.get i).selected.map Fin.val).getD 0xFF), BitVec.ofNat 8 (s.syn.get i).polarity.code,
          BitVec.ofNat 8 (s.syn.get i).verifyCount, BitVec.ofNat 8 (s.syn.get i).missCount]
        ++ be 2 (s.syn.get i).window
        ++ (match (s.syn.get i).windowTimer with
          | none => [0, 0, 0]
          | some start => 1 :: be 2 (((s.syn.get i).window * 1000 - (s.timebase - start).toNat) / 1000))
        ++ be 2 (s.syn.get i).idleTimeout ++ [if (s.syn.get i).bitsFlowing then 1 else 0]
        ++ be 4 (s.syn.get i).locksAcquired.toNat ++ be 4 (s.syn.get i).framesProcessed.toNat
        ++ be 4 (s.syn.get i).framesCoasted.toNat ++ be 4 (s.syn.get i).checkFailures.toNat
        ++ (match (s.syn.get i).frameTime with
          | none => 0 :: absent s.draws 6
          | some time => 1 :: be 6 time.toNat)
        ++ [BitVec.ofNat 8 (((s.syn.get i).lastReason.map SyncReason.code).getD 0xFF),
          BitVec.ofNat 8 (s.trk.get i).major.code]
        ++ be 2 ((s.trk.get i).lastId.getD 0xFFFF) ++ be 4 (s.trk.get i).majorCount.toNat := by
  have hflowing : yesNo (s.syn.get i).bitsFlowing = [if (s.syn.get i).bitsFlowing then 1 else 0] := by
    cases (s.syn.get i).bitsFlowing <;> rfl
  have hframe : presentBytes s.draws 6 ((s.syn.get i).frameTime.map fun t => be 6 t.toNat)
      = match (s.syn.get i).frameTime with
        | none => 0 :: absent s.draws 6
        | some time => 1 :: be 6 time.toNat := by
    cases (s.syn.get i).frameTime <;> rfl
  have hwindow : yesNo (s.syn.get i).windowTimer.isSome
        ++ be 2 (((s.syn.get i).windowTimer.map fun start => remainingMs s.timebase start (s.syn.get i).window).getD 0)
      = match (s.syn.get i).windowTimer with
        | none => [0, 0, 0]
        | some start => 1 :: be 2 (((s.syn.get i).window * 1000 - (s.timebase - start).toNat) / 1000) := by
    cases (s.syn.get i).windowTimer with
    | none => simp [yesNo, byte, be]
    | some start => rfl
  rewrite [← hflowing, ← hframe, ← hwindow]
  unfold State.streamReport
  dsimp only
  simp only [List.append_assoc, byte, byteOrNone, wordOrNone, List.cons_append, List.nil_append, BitVec.ofNat_toNat]

theorem State.streamReport_inbound (s : State) (rest : List Request) (i : StreamId) :
    ({ s with inbound := rest } : State).streamReport i = s.streamReport i := by
  unfold State.streamReport
  dsimp only

theorem runStreamStatus_eq (p : List Byte) (s : State) : runStreamStatus p s = unlessFailing (fieldZeroFailing p 1) s
    (.ok (s.streamReport (.ofField (fieldAt p 0 1))), { s with draws := s.draws + 1 }) := by
  unfold runStreamStatus unlessFailing
  cases fieldZeroFailing p 1 <;> rfl

theorem exec_streamStatus {s : State} {q : Request} {rest : List Request} {tag stream : Byte}
    (hq : q = ⟨0x12, tag, [stream]⟩) (h : s.fresh q rest) :
    exec .streamStatus s = .next (
      if 1 < stream.toNat then s.answered q rest .badValue [0]
      else State.answered { s with draws := s.draws + 1 } q rest .ok (s.streamReport (.ofField stream.toNat))) := by
  have hasks : s.asks q rest kindStreamStatus := by
    subst hq
    exact ⟨h, rfl, rfl⟩
  have hrow : exec .streamStatus s = .next (s.executeKind kindStreamStatus fun p t => unlessFailing (fieldZeroFailing p 1) t
      (.ok (t.streamReport (.ofField (fieldAt p 0 1))), { t with draws := t.draws + 1 })) :=
    congrArg (fun run => Host.Outcome.next (s.executeKind kindStreamStatus run)) (funext₂ runStreamStatus_eq)
  rw [exec_asks_stream (work := fun i t => (.ok (t.streamReport i), { t with draws := t.draws + 1 })) hrow
    (congrArg Request.payload hq) hasks]
  dsimp only [Request.doneBy, Reply.ok]
  rw [State.streamReport_inbound, State.answer_eq_answered (s := { s with draws := s.draws + 1 }) (rest := rest) q _ rfl]

/-- Settles O24: the reply is the report laid out; the free value is read only where there is no frame time. -/
theorem streamStatus : Obligations.StreamStatus := by
  intro s tag stream rest hfresh
  refine ⟨fun hbad => by rw [exec_streamStatus rfl hfresh, if_pos hbad], ?_⟩
  intro i hi y t
  refine ⟨absent s.draws 6, absent_length s.draws 6, ?_⟩
  rewrite [exec_streamStatus rfl hfresh, if_neg (StreamId.not_one_lt hi), StreamId.ofField_eq hi, State.streamReport_eq]
  rfl

end Sys2Proof.Machine
end

section
/-! The synchronizer's events (02): a bit in each state, the expected sync position, the two timers. -/

namespace Sys2Proof.Machine

/-! ### Comparisons (R18) -/

theorem differences_eq (p : Profile) (received : BitVec 64) : differences p received =
    ((List.range p.syncLength).filter fun n => received.getLsbD n != p.syncPattern.getLsbD n).length := by
  simp only [differences, onesBelow, BitVec.getLsbD_xor, List.countP_eq_length_filter, Bool.bne_eq_xor]

theorem Syn.hits_iff (y : Syn) (p : Profile) (pol : Polarity) :
    y.hits p pol ↔ p.searchMatch y.phase y.history y.fill = some pol := by
  unfold Profile.searchMatch
  split_ifs <;> cases pol <;> simp [Syn.hits, *] <;> omega

theorem Syn.expectedMatches_iff (y : Syn) (p : Profile) : y.expectedMatches p = true
    ↔ differences p (if y.polarity = .inverted then ~~~y.history else y.history) ≤ p.lockErrors := by
  rw [Syn.expectedMatches, decide_eq_true_iff]
  cases y.polarity <;> rfl

/-! ### A recorded bit (R15) -/

theorem Syn.record_eq (y : Syn) (bit : Bool) (now : Time) : y.record bit now =
    { y with
      history := (y.history <<< 1) ||| (if bit then 1 else 0)
      fill := min (y.fill + 1) 64, idleTimer := some now, bitsFlowing := true } := by
  cases bit <;> rfl

theorem exec_bitArrival (s : State) (i : StreamId) (bit : Bool) : exec (.bitArrival i bit) s = .next (s.bitArrival i bit) :=
  rfl

section
variable {s : State} {i : StreamId} {bit : Bool}

theorem State.bitArrival_off (h : (s.syn.get i).mode = .off) : s.bitArrival i bit = s := if_pos h

theorem State.bitArrival_on (h : (s.syn.get i).mode ≠ .off) :
    s.bitArrival i bit = (s.setSyn i ((s.syn.get i).record bit s.timebase)).bitWork i bit := if_neg h

@[simp] theorem Syn.record_mode (y : Syn) (bit : Bool) (now : Time) : (y.record bit now).mode = y.mode := rfl
@[simp] theorem Syn.record_selected (y : Syn) (bit : Bool) (now : Time) : (y.record bit now).selected = y.selected := rfl

theorem State.bitArrival_stopped (h : (s.syn.get i).mode = .stopped) :
    s.bitArrival i bit = s.setSyn i ((s.syn.get i).record bit s.timebase) := by
  rw [State.bitArrival_on (by rw [h]; decide), State.bitWork]
  simp only [State.setSyn_syn, PerStream.get_set, Syn.record_mode, h]

theorem State.bitArrival_hunt (h : (s.syn.get i).mode = .hunt) :
    s.bitArrival i bit = (s.setSyn i ((s.syn.get i).record bit s.timebase)).search i := by
  rw [State.bitArrival_on (by rw [h]; decide), State.bitWork]
  simp only [State.setSyn_syn, PerStream.get_set, Syn.record_mode, h]

/-! ### The search (R20) -/

theorem State.searchSelect_eq_none {y : Syn}
    (h : ∀ k p pol, y.armed.getLsbD k.val = true → s.profile k = some p → ¬ y.hits p pol) : s.searchSelect y = none := by
  refine List.findSome?_eq_none_iff.2 fun k _ => ?_
  split_ifs with harmed
  · cases hp : s.profile k with
    | none => rfl
    | some p =>
      refine Option.map_eq_none_iff.2 (Option.eq_none_iff_forall_ne_some.2 fun pol hpol => ?_)
      exact h k p pol harmed hp ((y.hits_iff p pol).2 hpol)
  · rfl

theorem State.searchSelect_eq_some {y : Syn} {k : Slot} {p : Profile} {pol : Polarity} (harmed : y.armed.getLsbD k.val = true)
    (hp : s.profile k = some p) (hits : y.hits p pol)
    (hleast : ∀ (j : Slot) (q : Profile) (pol' : Polarity), j < k → y.armed.getLsbD j.val = true → s.profile j = some q →
      ¬ y.hits q pol') : s.searchSelect y = some (k, p, pol) := by
  refine List.findSome?_eq_some_of_least allSlots_sorted (List.mem_finRange k) ?_ fun j _ hlt => ?_
  · rw [if_pos harmed, hp]
    dsimp only
    rw [(y.hits_iff p pol).1 hits, Option.map_some]
  · split_ifs with harmed'
    · cases hq : s.profile j with
      | none => rfl
      | some q =>
        refine Option.map_eq_none_iff.2 (Option.eq_none_iff_forall_ne_some.2 fun pol' hpol => ?_)
        exact hleast j q pol' hlt harmed' hq ((y.hits_iff q pol').2 hpol)
    · rfl

theorem State.search_none (h : s.searchSelect (s.syn.get i) = none) : s.search i = s := by
  rw [State.search, h]

theorem State.search_some {k : Slot} {p : Profile} {pol : Polarity} (h : s.searchSelect (s.syn.get i) = some (k, p, pol)) :
    s.search i = s.setSyn i ((s.syn.get i).select k p pol s.timebase) := by
  rw [State.search, h]

end

/-- Settles O25: what a bit does where no profile is followed; the lowest slot that matches is the first the search finds. -/
theorem bitSearched : Obligations.BitSearched := by
  refine ⟨?_, differences_eq⟩
  intro s i bit y recorded
  have hrecorded : recorded = y.record bit s.timebase := (y.record_eq bit s.timebase).symm
  have hsyn : (s.setSyn i recorded).syn.get i = recorded := PerStream.get_set _ i _
  refine ⟨fun hoff => ?_, fun hstopped => ?_, fun hhunt hnone => ?_, fun k p pol hhunt harmed hp hits hleast => ?_⟩
  · rw [exec_bitArrival, State.bitArrival_off hoff]
  · rw [exec_bitArrival, State.bitArrival_stopped hstopped, hrecorded]
    rfl
  · have hselect : (s.setSyn i recorded).searchSelect ((s.setSyn i recorded).syn.get i) = none := by
      rw [hsyn]
      exact State.searchSelect_eq_none hnone
    rw [exec_bitArrival, State.bitArrival_hunt hhunt, ← hrecorded, State.search_none hselect]
    rfl
  · have hselect : (s.setSyn i recorded).searchSelect ((s.setSyn i recorded).syn.get i) = some (k, p, pol) := by
      rw [hsyn]
      exact State.searchSelect_eq_some harmed hp hits hleast
    rw [exec_bitArrival, State.bitArrival_hunt hhunt, ← hrecorded, State.search_some hselect, hsyn]
    simp only [State.setSyn, PerStream.set_set]
    rfl

/-! ### A bit while a profile is followed (R19) -/

/-- The record with the expected sync position reached at this bit. -/
def Syn.positioned (y : Syn) (bit : Bool) (now : Time) : Syn :=
  { y.record bit now with bitsToSync := 0, frameTime := some now }

@[simp] theorem Syn.positioned_mode (y : Syn) (bit : Bool) (now : Time) : (y.positioned bit now).mode = y.mode := rfl
@[simp] theorem Syn.positioned_polarity (y : Syn) (bit : Bool) (now : Time) :
    (y.positioned bit now).polarity = y.polarity := rfl
@[simp] theorem Syn.positioned_verifyCount (y : Syn) (bit : Bool) (now : Time) :
    (y.positioned bit now).verifyCount = y.verifyCount := rfl
@[simp] theorem Syn.positioned_missCount (y : Syn) (bit : Bool) (now : Time) :
    (y.positioned bit now).missCount = y.missCount := rfl

theorem Syn.positioned_eq (y : Syn) (bit : Bool) (now : Time) : y.positioned bit now =
    { y with
      history := (y.history <<< 1) ||| (if bit then 1 else 0)
      fill := min (y.fill + 1) 64, idleTimer := some now, bitsFlowing := true, bitsToSync := 0, frameTime := some now } := by
  rw [Syn.positioned, Syn.record_eq]

@[simp] theorem State.setSyn_setSyn (s : State) (i : StreamId) (y z : Syn) : (s.setSyn i y).setSyn i z = s.setSyn i z := by
  simp only [State.setSyn, PerStream.set_set]

section
variable {s : State} {i : StreamId} {bit : Bool} {k : Slot} {p : Profile}

theorem State.bitArrival_follow (hmode : (s.syn.get i).mode = .verify ∨ (s.syn.get i).mode = .locked ∨ (s.syn.get i).mode = .coast)
    (hk : (s.syn.get i).selected = some k) (hp : s.profile k = some p) :
    s.bitArrival i bit = (s.setSyn i ((s.syn.get i).record bit s.timebase)).followBit i k p bit := by
  have hfollow : (s.setSyn i ((s.syn.get i).record bit s.timebase)).follow i bit
      = (s.setSyn i ((s.syn.get i).record bit s.timebase)).followBit i k p bit := by
    have hp' : (s.setSyn i ((s.syn.get i).record bit s.timebase)).profile k = some p := hp
    rw [State.follow, State.setSyn_syn, PerStream.get_set, Syn.record_selected, hk]
    dsimp only
    rw [hp']
  rw [← hfollow]
  rcases hmode with hmode | hmode | hmode <;>
    rw [State.bitArrival_on (by rw [hmode]; decide), State.bitWork] <;>
    simp only [State.setSyn_syn, PerStream.get_set, Syn.record_mode, hmode]

/-- R19: a bit counted toward the next position. -/
def State.counted (s : State) (i : StreamId) (bit : Bool) : State :=
  s.setSyn i { (s.syn.get i).record bit s.timebase with bitsToSync := (s.syn.get i).bitsToSync - 1 }

theorem State.followBit_counts (hleft : 1 < (s.syn.get i).bitsToSync) :
    (s.setSyn i ((s.syn.get i).record bit s.timebase)).followBit i k p bit
      = if (s.syn.get i).holdsLock = true ∧ p.syncLength < (s.syn.get i).bitsToSync then
          (s.counted i bit).trackerBit i ((s.syn.get i).polarity.correct bit)
        else s.counted i bit := by
  have hpositive : ¬ (s.syn.get i).bitsToSync - 1 = 0 := by omega
  have hbefore : p.syncLength ≤ (s.syn.get i).bitsToSync - 1 ↔ p.syncLength < (s.syn.get i).bitsToSync := by omega
  rw [State.followBit]
  simp only [State.setSyn_syn, PerStream.get_set, State.setSyn_setSyn]
  exact (if_neg hpositive).trans (if_congr (and_congr_right fun _ => hbefore) rfl rfl)

theorem State.bitArrival_position
    (hmode : (s.syn.get i).mode = .verify ∨ (s.syn.get i).mode = .locked ∨ (s.syn.get i).mode = .coast)
    (hk : (s.syn.get i).selected = some k) (hp : s.profile k = some p) (hleft : (s.syn.get i).bitsToSync = 1) :
    s.bitArrival i bit = match (s.syn.get i).mode with
      | .verify => (s.setSyn i ((s.syn.get i).positioned bit s.timebase)).verifyPosition i k p
      | .locked => (s.setSyn i ((s.syn.get i).positioned bit s.timebase)).lockedPosition i p
      | .coast => (s.setSyn i ((s.syn.get i).positioned bit s.timebase)).coastPosition i p
      | _ => s.setSyn i ((s.syn.get i).positioned bit s.timebase) := by
  have hzero : ((s.syn.get i).record bit s.timebase).bitsToSync - 1 = 0 := by
    show (s.syn.get i).bitsToSync - 1 = 0
    omega
  have hpositioned : { (s.syn.get i).record bit s.timebase with bitsToSync := 0, frameTime := some s.timebase }
      = (s.syn.get i).positioned bit s.timebase := rfl
  rw [State.bitArrival_follow hmode hk hp, State.followBit, State.setSyn_syn, PerStream.get_set, if_pos hzero,
    State.expectedPosition]
  simp only [State.setSyn_syn, PerStream.get_set, State.setSyn_setSyn, State.setSyn_timebase]
  rw [hpositioned, Syn.record_mode]
  rcases hmode with hmode | hmode | hmode <;> simp only [hmode]

end

/-! ### Bits before the position: R19, R45, R47 -/

theorem crcBit_eq (poly reg : BitVec 16) (bit : Bool) :
    crcBit poly reg bit = (reg <<< 1) ^^^ (if reg.msb != bit then poly else 0) := by
  unfold crcBit
  split <;> simp

theorem Tracker.takeBit_eq (t : Tracker) (p : Profile) (bit : Bool) : t.takeBit p bit =
    { t with
      word := (t.word <<< 1) ||| (if bit then 1 else 0)
      wordBits := t.wordBits + 1
      checkReg :=
        if p.check = .crc16 ∧ t.wordPos < p.frameWords then
          (t.checkReg <<< 1) ^^^ (if t.checkReg.msb != bit then 0x8005 else 0)
        else t.checkReg } := by
  rw [Tracker.takeBit, crcBit_eq]
  cases bit <;> rfl

theorem Polarity.correct_eq (pol : Polarity) (bit : Bool) : pol.correct bit = (bit != decide (pol = .inverted)) := by
  cases pol <;> cases bit <;> rfl

theorem State.trackerBit_eq {s : State} {i : StreamId} {k : Slot} {p : Profile} (hk : (s.trk.get i).profile = some k)
    (hp : s.profile k = some p) (bit : Bool) :
    s.trackerBit i bit = if (s.trk.get i).wordBits + 1 < p.wordLength then s.setTrk i ((s.trk.get i).takeBit p bit)
      else (s.setTrk i ((s.trk.get i).takeBit p bit)).wordComplete i k p := by
  rw [State.trackerBit, hk]
  dsimp only
  rw [hp]

/-- Settles O26: a bit before the position is recorded and counted, and handed to the tracker only where lock is held and
the sync pattern has not begun. -/
theorem bitBeforePosition : Obligations.BitBeforePosition := by
  intro s i bit k p y t hmode hk hp hleft counted corrected taken
  have hcounted : s.counted i bit = counted := by rw [State.counted, Syn.record_eq]; rfl
  have hfollow : exec (.bitArrival i bit) s = .next (if y.holdsLock = true ∧ p.syncLength < y.bitsToSync then
      counted.trackerBit i corrected else counted) := by
    rw [exec_bitArrival, State.bitArrival_follow hmode hk hp, State.followBit_counts hleft, hcounted, Polarity.correct_eq]
  rw [hfollow]
  refine ⟨fun hquiet => ?_, fun hverify hbefore ht => ?_⟩
  · have hno : ¬ (y.holdsLock = true ∧ p.syncLength < y.bitsToSync) := by
      rintro ⟨hlock, hbefore⟩
      rcases hquiet with hverify | hsync
      · simp [Syn.holdsLock, hverify] at hlock
      · omega
    rw [if_neg hno]
  · have hlock : y.holdsLock = true := decide_eq_true (hmode.resolve_left hverify)
    have htaken : t.takeBit p corrected = taken := t.takeBit_eq p corrected
    have hbit : counted.trackerBit i corrected = if t.wordBits + 1 < p.wordLength then counted.setTrk i taken
        else (counted.setTrk i taken).wordComplete i k p := by
      rw [← htaken]
      exact State.trackerBit_eq (s := counted) ht hp corrected
    rw [if_pos ⟨hlock, hbefore⟩, hbit]
    refine ⟨fun hmore => ?_, fun hfull => ?_⟩
    · rw [if_pos hmore]
      rfl
    · rw [if_neg (Nat.not_lt.2 hfull)]
      rfl

end Sys2Proof.Machine
end

section
/-! The expected sync position and the two timers (02): R21 to R26, R28, R29, R32. -/

namespace Sys2Proof.Machine

/-! ### A frame begin (R44) -/

theorem Tracker.beginFrame_eq (t : Tracker) (p : Profile) (coasted : Bool) (now : Time) :
    t.beginFrame p coasted now = t.begun p coasted now := by
  have hid : t.beginId p
      = if t.major = .majorLocked then if p.majorLength = 1 then some p.idBase else t.previousId.map p.succId else none := by
    unfold Tracker.beginId
    cases t.major <;> rfl
  rw [Tracker.beginFrame, Tracker.begun, hid, beq_eq_decide, beq_eq_decide]
  rfl

theorem State.frameBegin_eq (s : State) (i : StreamId) (p : Profile) (coasted : Bool) :
    s.frameBegin i p coasted = s.setTrk i ((s.trk.get i).begun p coasted s.timebase) := by
  rw [State.frameBegin, Tracker.beginFrame_eq]

@[simp] theorem State.setTrk_setTrk (s : State) (i : StreamId) (t u : Tracker) :
    (s.setTrk i t).setTrk i u = s.setTrk i u := by
  simp only [State.setTrk, PerStream.set_set]

/-- Raises read nothing of the trackers. -/
theorem State.setTrk_raiseAll (s : State) (i : StreamId) (t : Tracker) (rs : List Raise) :
    (s.raiseAll rs).setTrk i t = (s.setTrk i t).raiseAll rs := by
  have halike : (s.setTrk i t).alike s := ⟨rfl, rfl, rfl, rfl, rfl⟩
  rw [State.raiseAll_of_alike halike, State.raiseAll_eq s rs]
  rfl

/-! ### Lock gained, held through and lost (R23 to R26) -/

theorem State.gainLock_eq (s : State) (i : StreamId) (k : Slot) (p : Profile) :
    s.gainLock i k p = State.raiseAll { s with
      syn := s.syn.set i { (s.syn.get i).gainLock p with lastReason := some .verified }
      trk := s.trk.set i
        (((s.trk.get i).lockGained k p (s.syn.get i).polarity).begun p false s.timebase) }
      [.syncState i ⟨.locked, (s.syn.get i).phase, if p.majorLength = 1 then .majorLocked else .majorSearch,
        (s.syn.get i).selected, (s.syn.get i).polarity, .verified⟩] := by
  rw [State.gainLock, State.frameBegin_eq, State.setTrk_setTrk, State.raiseSync_setSyn_setTrk]
  simp only [State.setTrk_trk, State.setTrk_timebase, State.setSyn_timebase, State.setSyn_trk, PerStream.get_set]
  rfl

theorem State.loseLock_eq (s : State) (i : StreamId) (why : SyncReason) :
    s.loseLock i why = State.extractionStop
      (State.raiseAll { s with
        syn := s.syn.set i { (s.syn.get i).loseLock s.timebase with lastReason := some why }
        trk := s.trk.set i (s.trk.get i).drop }
        [.syncState i ⟨.hunt, .strict, .noMajor, none, .normal, why⟩]) i .lockLost := by
  rw [State.loseLock, State.raiseSync_setSyn_setTrk]
  rfl

theorem State.coastOn_first (s : State) (i : StreamId) (p : Profile) (misses : Nat) :
    s.coastOn i p misses true = State.raiseAll { s with
      syn := s.syn.set i { s.syn.get i with
        mode := .coast, missCount := misses, bitsToSync := p.frameBits, lastReason := some .miss }
      trk := s.trk.set i ((s.trk.get i).begun p true s.timebase) }
      [.syncState i ⟨.coast, (s.syn.get i).phase, (s.trk.get i).major, (s.syn.get i).selected, (s.syn.get i).polarity,
        .miss⟩] := by
  have hcoast : s.coastOn i p misses true = ((s.setSyn i { s.syn.get i with
    mode := .coast, missCount := misses, bitsToSync := p.frameBits }).raiseSync i .miss).frameBegin i p true := rfl
  rw [hcoast, State.raiseSync_setSyn, State.frameBegin_eq, State.setTrk_raiseAll, State.raiseAll_trk,
    State.raiseAll_timebase]
  rfl

theorem State.coastOn_again (s : State) (i : StreamId) (p : Profile) (misses : Nat) :
    s.coastOn i p misses false = { s with
      syn := s.syn.set i { s.syn.get i with mode := .coast, missCount := misses, bitsToSync := p.frameBits }
      trk := s.trk.set i ((s.trk.get i).begun p true s.timebase) } := by
  have hcoast : s.coastOn i p misses false = (s.setSyn i { s.syn.get i with
    mode := .coast, missCount := misses, bitsToSync := p.frameBits }).frameBegin i p true := rfl
  rw [hcoast, State.frameBegin_eq]
  rfl

/-- R25: a match in COAST. -/
theorem State.recover_eq (s : State) (i : StreamId) (p : Profile) :
    ((s.setSyn i { s.syn.get i with mode := .locked, missCount := 0, bitsToSync := p.frameBits }).raiseSync i
        .recovered).frameBegin i p false
      = State.raiseAll { s with
        syn := s.syn.set i { s.syn.get i with
          mode := .locked, missCount := 0, bitsToSync := p.frameBits, lastReason := some .recovered }
        trk := s.trk.set i ((s.trk.get i).begun p false s.timebase) }
        [.syncState i ⟨.locked, (s.syn.get i).phase, (s.trk.get i).major, (s.syn.get i).selected, (s.syn.get i).polarity,
          .recovered⟩] := by
  rw [State.raiseSync_setSyn, State.frameBegin_eq, State.setTrk_raiseAll, State.raiseAll_trk, State.raiseAll_timebase]
  rfl

/-! ### The position in each state -/

section
variable {s : State} {i : StreamId} {k : Slot} {p : Profile}

theorem State.verifyPosition_miss (h : (s.syn.get i).expectedMatches p = false) :
    s.verifyPosition i k p = s.setSyn i (s.syn.get i).verifyFailed := if_neg (Bool.eq_false_iff.1 h)

theorem State.verifyPosition_more (h : (s.syn.get i).expectedMatches p = true)
    (hmore : (s.syn.get i).verifyCount + 1 < p.verifyFrames) :
    s.verifyPosition i k p
      = s.setSyn i { s.syn.get i with verifyCount := (s.syn.get i).verifyCount + 1, bitsToSync := p.frameBits } :=
  (if_pos h).trans (if_pos hmore)

theorem State.verifyPosition_done (h : (s.syn.get i).expectedMatches p = true)
    (hdone : p.verifyFrames ≤ (s.syn.get i).verifyCount + 1) : s.verifyPosition i k p = s.gainLock i k p :=
  (if_pos h).trans (if_neg (Nat.not_lt.2 hdone))

theorem State.lockedPosition_match (h : (s.syn.get i).expectedMatches p = true) :
    s.lockedPosition i p = (s.setSyn i { s.syn.get i with bitsToSync := p.frameBits }).frameBegin i p false := if_pos h

theorem State.lockedPosition_miss (h : (s.syn.get i).expectedMatches p = false) :
    s.lockedPosition i p = if 1 ≤ p.coastFrames then s.coastOn i p 1 true else s.loseLock i .misses :=
  if_neg (Bool.eq_false_iff.1 h)

theorem State.coastPosition_match (h : (s.syn.get i).expectedMatches p = true) :
    s.coastPosition i p = ((s.setSyn i { s.syn.get i with
      mode := .locked, missCount := 0, bitsToSync := p.frameBits }).raiseSync i .recovered).frameBegin i p false := if_pos h

theorem State.coastPosition_miss (h : (s.syn.get i).expectedMatches p = false) :
    s.coastPosition i p = if (s.syn.get i).missCount + 1 ≤ p.coastFrames then
      s.coastOn i p ((s.syn.get i).missCount + 1) false else s.loseLock i .misses :=
  if_neg (Bool.eq_false_iff.1 h)

end

section
variable (y : Syn) (bit : Bool) (now : Time) (p : Profile)

/-- R18: the errors of the comparison at the position this bit completes. -/
def Syn.positionErrors : Nat :=
  differences p (if y.polarity = .inverted then ~~~((y.history <<< 1) ||| (if bit then 1 else 0))
    else (y.history <<< 1) ||| (if bit then 1 else 0))

variable {y bit now p}

theorem Syn.positioned_matches (h : y.positionErrors bit p ≤ p.lockErrors) :
    (y.positioned bit now).expectedMatches p = true := by
  rw [Syn.expectedMatches_iff, Syn.positioned_eq]
  exact h

theorem Syn.positioned_misses (h : p.lockErrors < y.positionErrors bit p) :
    (y.positioned bit now).expectedMatches p = false := by
  rw [← Bool.not_eq_true, Syn.expectedMatches_iff, Syn.positioned_eq]
  exact Nat.not_le.2 h

end

/-- The state the position's work begins from, and its record. -/
theorem State.setSyn_get (s : State) (i : StreamId) (y : Syn) : (s.setSyn i y).syn.get i = y := PerStream.get_set _ i y

/-- Settles O27: a miss, a match that is not the last, and the match that gains lock. -/
theorem verifyPosition : Obligations.VerifyPosition := by
  intro s i bit k p y t hmode hk hp hleft recorded errors gained
  have hposition : exec (.bitArrival i bit) s
      = .next ((s.setSyn i (y.positioned bit s.timebase)).verifyPosition i k p) := by
    rw [exec_bitArrival, State.bitArrival_position (.inl hmode) hk hp hleft]
    simp only [y] at hmode
    simp only [hmode, y]
  have hsyn := s.setSyn_get i (y.positioned bit s.timebase)
  have hselected : (y.positioned bit s.timebase).selected = some k := hk
  rw [hposition]
  refine ⟨fun hmiss => ?_, fun hmatch hmore => ?_, fun hmatch hdone => ?_⟩
  · rw [State.verifyPosition_miss (by rw [hsyn]; exact Syn.positioned_misses hmiss), hsyn, State.setSyn_setSyn,
      Syn.positioned_eq]
    rfl
  · rw [State.verifyPosition_more (by rw [hsyn]; exact Syn.positioned_matches hmatch) (by rw [hsyn]; exact hmore), hsyn,
      State.setSyn_setSyn, Syn.positioned_eq]
    rfl
  · rw [State.verifyPosition_done (by rw [hsyn]; exact Syn.positioned_matches hmatch) (by rw [hsyn]; exact hdone),
      State.gainLock_eq, hsyn, hselected, Syn.positioned_eq]
    simp only [State.setSyn, PerStream.set_set]
    rfl

/-- Settles O28: a match and a miss that is held through, from LOCKED and from COAST. -/
theorem lockPosition : Obligations.LockPosition := by
  intro s i bit k p y t hmode hk hp hleft recorded errors
  have hsyn := s.setSyn_get i (y.positioned bit s.timebase)
  have hselected : (y.positioned bit s.timebase).selected = some k := hk
  have hlocked (h : y.mode = .locked) : exec (.bitArrival i bit) s
      = .next ((s.setSyn i (y.positioned bit s.timebase)).lockedPosition i p) := by
    rw [exec_bitArrival, State.bitArrival_position (.inr (.inl h)) hk hp hleft]
    simp only [y] at h
    simp only [h, y]
  have hcoast (h : y.mode = .coast) : exec (.bitArrival i bit) s
      = .next ((s.setSyn i (y.positioned bit s.timebase)).coastPosition i p) := by
    rw [exec_bitArrival, State.bitArrival_position (.inr (.inr h)) hk hp hleft]
    simp only [y] at h
    simp only [h, y]
  refine ⟨fun hmatch h => ?_, fun hmatch h => ?_, fun hmiss h hallowed => ?_, fun hmiss h hallowed => ?_⟩
  · rw [hlocked h, State.lockedPosition_match (by rw [hsyn]; exact Syn.positioned_matches hmatch), hsyn,
      State.setSyn_setSyn, State.frameBegin_eq, Syn.positioned_eq]
    rfl
  · rw [hcoast h, State.coastPosition_match (by rw [hsyn]; exact Syn.positioned_matches hmatch), State.recover_eq, hsyn,
      hselected, Syn.positioned_eq]
    simp only [State.setSyn, PerStream.set_set]
    rfl
  · rw [hlocked h, State.lockedPosition_miss (by rw [hsyn]; exact Syn.positioned_misses hmiss), if_pos hallowed,
      State.coastOn_first, hsyn, hselected, Syn.positioned_eq]
    simp only [State.setSyn, PerStream.set_set]
    rfl
  · rw [hcoast h, State.coastPosition_miss (by rw [hsyn]; exact Syn.positioned_misses hmiss),
      if_pos (by rw [hsyn]; exact hallowed), State.coastOn_again, hsyn, Syn.positioned_eq]
    simp only [State.setSyn, PerStream.set_set]
    rw [← h]
    rfl

/-- Settles O29: both misses that lose lock run R26, whose record is written over the one the position left. -/
theorem lockLost : Obligations.LockLost := by
  intro s i bit k p y hmode hk hp hleft history hmiss
  have hsyn := s.setSyn_get i (y.positioned bit s.timebase)
  have hlost : exec (.bitArrival i bit) s = .next ((s.setSyn i (y.positioned bit s.timebase)).loseLock i .misses) := by
    rw [exec_bitArrival]
    rcases hmode with ⟨h, hcoast⟩ | ⟨h, hcoast⟩
    · rw [State.bitArrival_position (.inr (.inl h)) hk hp hleft]
      simp only [y] at h
      simp only [h]
      rw [State.lockedPosition_miss (by rw [hsyn]; exact Syn.positioned_misses hmiss), if_neg (by omega)]
    · rw [State.bitArrival_position (.inr (.inr h)) hk hp hleft]
      simp only [y] at h
      simp only [h]
      rw [State.coastPosition_miss (by rw [hsyn]; exact Syn.positioned_misses hmiss),
        if_neg (by rw [hsyn]; exact Nat.not_le.2 hcoast)]
  rw [hlost, State.loseLock_eq, hsyn, Syn.positioned_eq]
  simp only [State.setSyn, PerStream.set_set]
  rfl

/-! ### The timers (R28, R29, R32) -/

theorem timerDue_of_due {now : Time} {timer : Option Time} {ms : Nat} {start : Time} (hrun : timer = some start)
    (h : ms * 1000 ≤ (now - start).toNat) : timerDue now timer ms = true := by
  rw [hrun]
  exact decide_eq_true h

theorem timerDue_of_early {now : Time} {timer : Option Time} {ms : Nat}
    (h : ∀ start, timer = some start → (now - start).toNat < ms * 1000) : timerDue now timer ms = false := by
  cases timer with
  | none => rfl
  | some start => exact decide_eq_false (Nat.not_le.2 (h start rfl))

section
variable {s : State} {i : StreamId}

theorem State.idleEffect_verify (h : (s.syn.get i).mode = .verify) :
    s.idleEffect i = s.setSyn i (s.syn.get i).verifyFailed := by
  rw [State.idleEffect, h]

theorem State.idleEffect_lock (h : (s.syn.get i).mode = .locked ∨ (s.syn.get i).mode = .coast) :
    s.idleEffect i = s.loseLock i .idle := by
  rcases h with h | h <;> rw [State.idleEffect, h]

theorem State.windowExpiry_strict (hdue : timerDue s.timebase (s.syn.get i).windowTimer (s.syn.get i).window = true)
    (hphase : (s.syn.get i).phase = .strict) :
    s.windowExpiry i = (s.setSyn i ((s.syn.get i).relax s.timebase)).raiseSync i .windowRelaxed := by
  rw [State.windowExpiry, if_pos hdue, hphase]

theorem State.windowExpiry_relaxed (hdue : timerDue s.timebase (s.syn.get i).windowTimer (s.syn.get i).window = true)
    (hphase : (s.syn.get i).phase = .relaxed) :
    s.windowExpiry i = (s.setSyn i (s.syn.get i).giveUp).raiseSync i .windowStopped := by
  rw [State.windowExpiry, if_pos hdue, hphase]

theorem State.idleEffect_none (hverify : (s.syn.get i).mode ≠ .verify) (hlocked : (s.syn.get i).mode ≠ .locked)
    (hcoast : (s.syn.get i).mode ≠ .coast) : s.idleEffect i = s := by
  unfold State.idleEffect
  split
  case h_3 h => exact absurd h hverify
  case h_4 h => exact absurd h hlocked
  case h_5 h => exact absurd h hcoast
  all_goals rfl

end

/-- Settles O30: an expiry that is due does what its state or phase says, and one that is not does nothing. -/
theorem timersExpire : Obligations.TimersExpire := by
  refine ⟨fun s i => ?_, fun s i => ?_⟩
  · intro y
    refine ⟨fun start hstart hdue => ?_, fun hearly => ?_⟩
    · have hexpiry : exec (.idleExpiry i) s
          = .next ((s.setSyn i { y with bitsFlowing := false, idleTimer := none }).idleEffect i) :=
        congrArg Host.Outcome.next (if_pos (timerDue_of_due hstart hdue))
      have hsyn := s.setSyn_get i { y with bitsFlowing := false, idleTimer := none }
      rw [hexpiry]
      split
      · rename_i hmode
        rw [State.idleEffect_verify (by rw [hsyn]; exact hmode), hsyn, State.setSyn_setSyn]
        rfl
      · rename_i hmode
        rw [State.idleEffect_lock (by rw [hsyn]; exact .inl hmode), State.loseLock_eq, hsyn]
        simp only [State.setSyn, PerStream.set_set]
        rfl
      · rename_i hmode
        rw [State.idleEffect_lock (by rw [hsyn]; exact .inr hmode), State.loseLock_eq, hsyn]
        simp only [State.setSyn, PerStream.set_set]
        rfl
      · rename_i hverify hlocked hcoast
        rw [State.idleEffect_none (by rw [hsyn]; exact hverify) (by rw [hsyn]; exact hlocked) (by rw [hsyn]; exact hcoast)]
        rfl
    · exact congrArg Host.Outcome.next (if_neg (Bool.eq_false_iff.1 (timerDue_of_early hearly)))
  · intro y major
    refine ⟨fun start hstart hdue => ?_, fun hearly => ?_⟩
    · have hexpiry : exec (.windowExpiry i) s = .next (s.windowExpiry i) := rfl
      have htimer : timerDue s.timebase y.windowTimer y.window = true := timerDue_of_due hstart hdue
      rw [hexpiry]
      split
      · rename_i hphase
        rw [State.windowExpiry_strict htimer hphase, State.raiseSync_setSyn]
        rfl
      · rename_i hphase
        rewrite [State.windowExpiry_relaxed htimer hphase, State.raiseSync_setSyn, ← hphase]
        rfl
    · exact congrArg Host.Outcome.next (if_neg (Bool.eq_false_iff.1 (timerDue_of_early hearly)))

end Sys2Proof.Machine
end

section
/-! What a legal stream's records allow, change by change (02, 03): the changes of the synchronizer, a frame begin, a bit at
the tracker, the ID word and the lookup. -/

namespace Sys2Proof.Machine

/-! ### The modes (R15, R17) -/

theorem Syn.holdsLock_iff (y : Syn) : y.holdsLock = true ↔ y.mode = .locked ∨ y.mode = .coast := decide_eq_true_iff

theorem Syn.follows_iff (y : Syn) : y.follows = true ↔ y.mode = .verify ∨ y.mode = .locked ∨ y.mode = .coast :=
  decide_eq_true_iff

theorem Syn.follows_of_holdsLock {y : Syn} (h : y.holdsLock = true) : y.follows = true :=
  y.follows_iff.2 (.inr (y.holdsLock_iff.1 h))

theorem Syn.holdsLock_eq_false {y : Syn} (hlocked : y.mode ≠ .locked) (hcoast : y.mode ≠ .coast) : y.holdsLock = false :=
  decide_eq_false (by simp [hlocked, hcoast])

/-! ### The two records of a stream -/

/-- What `State.StreamLegal` says of a stream's two records. -/
structure RecordsLegal (profile : Slot → Option Profile) (y : Syn) (t : Tracker) : Prop where
  syn : y.Legal
  trk : t.Legal
  armed : y.mode ≠ .off → ∀ k : Slot, y.armed.getLsbD k.val = true → (profile k).isSome
  following : y.follows = true → ∃ k p, y.selected = some k ∧ profile k = some p ∧ y.Following k p
    ∧ (y.holdsLock = true → t.Tracking k p y.bitsToSync)
  noLock : y.holdsLock = false → t.Idle

/-- Extraction is active, as `State.extractionActive` says it of the two records. -/
def activeOf (y : Syn) (t : Tracker) : Prop := y.holdsLock = true ∧ t.major = .majorLocked

theorem State.extractionActive_iff (s : State) (i : StreamId) :
    s.extractionActive i = true ↔ activeOf (s.syn.get i) (s.trk.get i) := by
  simp [State.extractionActive, activeOf]

theorem State.StreamLegal.records {s : State} {i : StreamId} (h : s.StreamLegal i) :
    RecordsLegal s.profile (s.syn.get i) (s.trk.get i) := ⟨h.syn, h.trk, h.armed, h.following, h.noLock⟩

theorem RecordsLegal.streamLegal {s : State} {i : StreamId} (h : RecordsLegal s.profile (s.syn.get i) (s.trk.get i))
    (hpending : (s.stage.get i).pending = true → activeOf (s.syn.get i) (s.trk.get i))
    (hstaged : (s.stage.get i).edits.length ≤ 64) : s.StreamLegal i :=
  ⟨h.syn, h.trk, h.armed, h.following, h.noLock, fun hp => (s.extractionActive_iff i).2 (hpending hp), hstaged⟩

section
variable {profile : Slot → Option Profile} {y : Syn} {t : Tracker} {k : Slot} {p : Profile}

theorem RecordsLegal.quiet (hy : y.Legal) (ht : t.Legal)
    (harmed : y.mode ≠ .off → ∀ k : Slot, y.armed.getLsbD k.val = true → (profile k).isSome)
    (hno : y.follows = false) (hidle : t.Idle) : RecordsLegal profile y t where
  syn := hy
  trk := ht
  armed := harmed
  following hyes := absurd hyes (Bool.eq_false_iff.1 hno)
  noLock _ := hidle

theorem RecordsLegal.verifying (hy : y.Legal) (ht : t.Legal)
    (harmed : y.mode ≠ .off → ∀ k : Slot, y.armed.getLsbD k.val = true → (profile k).isSome) (hmode : y.mode = .verify)
    (hk : y.selected = some k) (hp : profile k = some p) (hf : y.Following k p) (hidle : t.Idle) :
    RecordsLegal profile y t where
  syn := hy
  trk := ht
  armed := harmed
  following _ := ⟨k, p, hk, hp, hf, fun hlock => by simp [Syn.holdsLock, hmode] at hlock⟩
  noLock _ := hidle

theorem RecordsLegal.tracking (hy : y.Legal) (ht : t.Legal)
    (harmed : y.mode ≠ .off → ∀ k : Slot, y.armed.getLsbD k.val = true → (profile k).isSome) (hlock : y.holdsLock = true)
    (hk : y.selected = some k) (hp : profile k = some p) (hf : y.Following k p) (htracking : t.Tracking k p y.bitsToSync) :
    RecordsLegal profile y t where
  syn := hy
  trk := ht
  armed := harmed
  following _ := ⟨k, p, hk, hp, hf, fun _ => htracking⟩
  noLock hno := absurd hlock (Bool.eq_false_iff.1 hno)

/-- The selected slot and its profile are the ones that are followed. -/
theorem RecordsLegal.following_of (h : RecordsLegal profile y t) (hfollows : y.follows = true) (hk : y.selected = some k)
    (hp : profile k = some p) : y.Following k p ∧ (y.holdsLock = true → t.Tracking k p y.bitsToSync) := by
  obtain ⟨k', p', hk', hp', hrest⟩ := h.following hfollows
  obtain rfl : k = k' := Option.some.inj (hk.symm.trans hk')
  obtain rfl : p = p' := Option.some.inj (hp.symm.trans hp')
  exact hrest

/-! ### A stream outside lock: recording, searching, verifying, ending -/

theorem Syn.Legal.record (h : y.Legal) (hmode : y.mode ≠ .off) (bit : Bool) (now : Time) : (y.record bit now).Legal where
  idle := h.idle
  misses := h.misses
  windowTimer := h.windowTimer
  off hoff := absurd hoff hmode
  stopped := h.stopped
  flowing _ := Option.some_ne_none now
  idleTimeout := h.idleTimeout
  window := h.window
  fill := Nat.min_le_right _ _

theorem Syn.Following.record (h : y.Following k p) (bit : Bool) (now : Time) : (y.record bit now).Following k p :=
  ⟨h.inArmedSet, h.bitsToSync, h.verify, h.verifyCount, h.coast⟩

theorem RecordsLegal.record (h : RecordsLegal profile y t) (hmode : y.mode ≠ .off) (bit : Bool) (now : Time) :
    RecordsLegal profile (y.record bit now) t where
  syn := h.syn.record hmode bit now
  trk := h.trk
  armed := h.armed
  following hf := by
    obtain ⟨k, p, hk, hp, hfollowing, htracking⟩ := h.following hf
    exact ⟨k, p, hk, hp, hfollowing.record bit now, htracking⟩
  noLock := h.noLock

/-- R35: an arm. -/
theorem RecordsLegal.arm (h : RecordsLegal profile y t) (hmode : y.mode = .off ∨ y.mode = .stopped) {f : ArmFields}
    (hf : f.failing = none) (hwindow : f.window ≤ 65535)
    (hloaded : ∀ k : Slot, (BitVec.ofNat 4 f.set).getLsbD k.val = true → (profile k).isSome) (now : Time)
    (why : Option SyncReason) : RecordsLegal profile { y.arm f now with lastReason := why } t := by
  obtain ⟨-, -, -, hidle1, hidle2⟩ := ArmFields.failing_none hf
  have hlegal : ({ y.arm f now with lastReason := why } : Syn).Legal :=
    { idle := fun _ => ⟨rfl, rfl, rfl, rfl⟩
      misses := fun _ => rfl
      windowTimer := fun hrun => ⟨.inl rfl, Nat.pos_of_ne_zero fun h0 => hrun (if_pos h0)⟩
      off := fun hoff => by cases hoff
      stopped := fun hstopped => by cases hstopped
      flowing := fun hflowing => by cases hflowing
      idleTimeout := ⟨hidle1, hidle2⟩
      window := hwindow
      fill := Nat.zero_le _ }
  refine RecordsLegal.quiet hlegal h.trk (fun _ => hloaded) rfl (h.noLock ?_)
  rcases hmode with hmode | hmode <;> exact Syn.holdsLock_eq_false (by rw [hmode]; decide) (by rw [hmode]; decide)

/-- R20: the search selects an armed profile. -/
theorem RecordsLegal.select (h : RecordsLegal profile y t) (hmode : y.mode = .hunt) (harmed : y.armed.getLsbD k.val = true)
    (hp : profile k = some p) (hlegal : p.Legal) (pol : Polarity) (now : Time) :
    RecordsLegal profile (y.select k p pol now) t := by
  have hbits : 1 ≤ p.frameBits := Nat.mul_pos (by have := hlegal.frameWords; omega) (by have := hlegal.wordLength; omega)
  have hy : (y.select k p pol now).Legal :=
    { idle := fun hno => by cases hno
      misses := fun _ => h.syn.misses (by rw [hmode]; decide)
      windowTimer := fun hrun => ⟨.inr rfl, (h.syn.windowTimer hrun).2⟩
      off := fun hoff => by cases hoff
      stopped := fun hstopped => by cases hstopped
      flowing := h.syn.flowing
      idleTimeout := h.syn.idleTimeout
      window := h.syn.window
      fill := h.syn.fill }
  exact RecordsLegal.verifying hy h.trk (fun _ => h.armed (by rw [hmode]; decide)) rfl rfl hp
    { inArmedSet := harmed
      bitsToSync := ⟨hbits, Nat.le_refl _⟩
      verify := fun _ => hlegal.verifyFrames.1
      verifyCount := Nat.zero_le _
      coast := fun hcoast => by cases hcoast }
    (h.noLock (Syn.holdsLock_eq_false (by rw [hmode]; decide) (by rw [hmode]; decide)))

/-- R22: verification ends without lock. -/
theorem RecordsLegal.verifyFailed (h : RecordsLegal profile y t) (hmode : y.mode = .verify) :
    RecordsLegal profile y.verifyFailed t := by
  have hy : y.verifyFailed.Legal :=
    { idle := fun _ => ⟨rfl, rfl, rfl, rfl⟩
      misses := fun _ => h.syn.misses (by rw [hmode]; decide)
      windowTimer := fun hrun => ⟨.inl rfl, (h.syn.windowTimer hrun).2⟩
      off := fun hoff => by cases hoff
      stopped := fun hstopped => by cases hstopped
      flowing := h.syn.flowing
      idleTimeout := h.syn.idleTimeout
      window := h.syn.window
      fill := h.syn.fill }
  exact RecordsLegal.quiet hy h.trk (fun _ => h.armed (by rw [hmode]; decide)) rfl
    (h.noLock (Syn.holdsLock_eq_false (by rw [hmode]; decide) (by rw [hmode]; decide)))

/-- R28: the phase relaxes. -/
theorem RecordsLegal.relax (h : RecordsLegal profile y t) (hrun : y.windowTimer ≠ none) (now : Time) (why : Option SyncReason) :
    RecordsLegal profile { y.relax now with lastReason := why } t := by
  have hmode := (h.syn.windowTimer hrun).1
  exact
    { syn :=
        { idle := h.syn.idle
          misses := h.syn.misses
          windowTimer := fun _ => h.syn.windowTimer hrun
          off := fun hoff => by rcases hmode with hmode | hmode <;> exact absurd (hoff.symm.trans hmode) (by decide)
          stopped := fun _ => rfl
          flowing := h.syn.flowing
          idleTimeout := h.syn.idleTimeout
          window := h.syn.window
          fill := h.syn.fill }
      trk := h.trk
      armed := h.armed
      following := fun hf => by
        obtain ⟨k, p, hk, hp, hfollowing, htracking⟩ := h.following hf
        exact ⟨k, p, hk, hp, ⟨hfollowing.inArmedSet, hfollowing.bitsToSync, hfollowing.verify, hfollowing.verifyCount,
          hfollowing.coast⟩, htracking⟩
      noLock := h.noLock }

/-- R29: acquisition ends. -/
theorem RecordsLegal.giveUp (h : RecordsLegal profile y t) (hrun : y.windowTimer ≠ none) (hphase : y.phase = .relaxed)
    (why : Option SyncReason) : RecordsLegal profile { y.giveUp with lastReason := why } t := by
  have hmode := (h.syn.windowTimer hrun).1
  have hnot (m : SyncMode) (hhunt : m ≠ .hunt) (hverify : m ≠ .verify) : y.mode ≠ m := by
    rcases hmode with hmode | hmode <;> rw [hmode]
    · exact hhunt.symm
    · exact hverify.symm
  have hy : ({ y.giveUp with lastReason := why } : Syn).Legal :=
    { idle := fun _ => ⟨rfl, rfl, rfl, rfl⟩
      misses := fun _ => h.syn.misses (hnot _ (by decide) (by decide))
      windowTimer := fun hrun => absurd rfl hrun
      off := fun hoff => by cases hoff
      stopped := fun _ => hphase
      flowing := h.syn.flowing
      idleTimeout := h.syn.idleTimeout
      window := h.syn.window
      fill := h.syn.fill }
  exact RecordsLegal.quiet hy h.trk (fun _ => h.armed (hnot _ (by decide) (by decide))) rfl
    (h.noLock (Syn.holdsLock_eq_false (hnot _ (by decide) (by decide)) (hnot _ (by decide) (by decide))))

/-- R32: the idle timer has expired. -/
theorem RecordsLegal.idled (h : RecordsLegal profile y t) :
    RecordsLegal profile { y with bitsFlowing := false, idleTimer := none } t where
  syn :=
    { idle := h.syn.idle
      misses := h.syn.misses
      windowTimer := h.syn.windowTimer
      off := fun hoff => ⟨rfl, rfl, (h.syn.off hoff).2.2⟩
      stopped := h.syn.stopped
      flowing := fun hflowing => by cases hflowing
      idleTimeout := h.syn.idleTimeout
      window := h.syn.window
      fill := h.syn.fill }
  trk := h.trk
  armed := h.armed
  following hf := by
    obtain ⟨k, p, hk, hp, hfollowing, htracking⟩ := h.following hf
    exact ⟨k, p, hk, hp, ⟨hfollowing.inArmedSet, hfollowing.bitsToSync, hfollowing.verify, hfollowing.verifyCount,
      hfollowing.coast⟩, htracking⟩
  noLock := h.noLock

/-! ### A stop: R36, R26, R42, R64, R65 -/

/-- R64: the tracker once extraction has stopped. -/
def Tracker.emptied (t : Tracker) : Tracker := { t with assembly := [], staging := [] }

theorem Tracker.Legal.emptied (h : t.Legal) : t.emptied.Legal := ⟨h.extracting, fun _ => ⟨rfl, rfl⟩, h.mismatch, h.predicted⟩

theorem Tracker.drop_emptied_idle (t : Tracker) : t.drop.emptied.Idle := ⟨rfl, rfl, rfl, rfl, rfl⟩

theorem Tracker.drop_emptied_legal (t : Tracker) : t.drop.emptied.Legal where
  extracting h := by cases h
  lists _ := ⟨rfl, rfl⟩
  mismatch := Nat.zero_le 1
  predicted h := by cases h

theorem RecordsLegal.loseLock (h : RecordsLegal profile y t) (hmode : y.mode ≠ .off) (now : Time) (why : Option SyncReason) :
    RecordsLegal profile { y.loseLock now with lastReason := why } t.drop.emptied := by
  have hy : ({ y.loseLock now with lastReason := why } : Syn).Legal :=
    { idle := fun _ => ⟨rfl, rfl, rfl, rfl⟩
      misses := fun _ => rfl
      windowTimer := fun hrun => ⟨.inl rfl, Nat.pos_of_ne_zero fun h0 => hrun (if_pos h0)⟩
      off := fun hoff => by cases hoff
      stopped := fun hstopped => by cases hstopped
      flowing := h.syn.flowing
      idleTimeout := h.syn.idleTimeout
      window := h.syn.window
      fill := h.syn.fill }
  exact RecordsLegal.quiet hy t.drop_emptied_legal (fun _ => h.armed hmode) rfl t.drop_emptied_idle

theorem RecordsLegal.turnOff (h : RecordsLegal profile y t) (why : Option SyncReason) :
    RecordsLegal profile { y.turnOff with lastReason := why } t.drop.emptied := by
  have hy : ({ y.turnOff with lastReason := why } : Syn).Legal :=
    { idle := fun _ => ⟨rfl, rfl, rfl, rfl⟩
      misses := fun _ => rfl
      windowTimer := fun hrun => absurd rfl hrun
      off := fun _ => ⟨rfl, rfl, rfl, rfl⟩
      stopped := fun hstopped => by cases hstopped
      flowing := fun hflowing => by cases hflowing
      idleTimeout := h.syn.idleTimeout
      window := h.syn.window
      fill := Nat.zero_le _ }
  exact RecordsLegal.quiet hy t.drop_emptied_legal (fun hon => absurd rfl hon) rfl t.drop_emptied_idle

theorem Tracker.reset_idle : Tracker.reset.Idle := ⟨rfl, rfl, rfl, rfl, rfl⟩

theorem Tracker.reset_legal : Tracker.reset.Legal where
  extracting h := by cases h
  lists _ := ⟨rfl, rfl⟩
  mismatch := Nat.zero_le 1
  predicted h := by cases h

/-- R42, R67: a stream that is OFF after a STREAMS reset. -/
theorem RecordsLegal.afterStreamsReset (h : RecordsLegal profile y t) (hoff : y.mode = .off) :
    RecordsLegal profile y.afterStreamsReset .reset := by
  have hno : y.afterStreamsReset.follows = false := decide_eq_false (by rw [show y.afterStreamsReset.mode = y.mode from rfl, hoff]; decide)
  have hy : y.afterStreamsReset.Legal :=
    ⟨h.syn.idle, h.syn.misses, h.syn.windowTimer, h.syn.off, h.syn.stopped, h.syn.flowing, h.syn.idleTimeout, h.syn.window,
      h.syn.fill⟩
  exact RecordsLegal.quiet hy Tracker.reset_legal (fun hon => absurd hoff hon) hno Tracker.reset_idle

/-! ### Lock gained and held: R21, R23 to R25, R44, R48 -/

/-- What `Tracker.Tracking` says apart from the place in the frame. -/
structure Tracker.Held (t : Tracker) (k : Slot) (p : Profile) : Prop where
  major : t.major ≠ .noMajor
  profile : t.profile = some k
  oneMinor : p.majorLength = 1 → t.major = .majorLocked
  previousId : t.major = .majorLocked → t.previousId ≠ none
  frameId : t.major = .majorLocked → t.frameId ≠ none

theorem Tracker.Tracking.held {left : Nat} (h : t.Tracking k p left) : t.Held k p :=
  ⟨h.major, h.profile, h.oneMinor, h.previousId, h.frameId⟩

/-- R1, R44: a frame begins right after the sync words, with all its bits to come. -/
theorem Profile.Legal.frameBits_eq (h : p.Legal) :
    p.frameBits + 0 = p.syncLength + (p.frameWords - (p.syncLength / p.wordLength + 1) + 1) * p.wordLength := by
  have hsync : p.syncLength = p.syncLength / p.wordLength * p.wordLength :=
    (Nat.div_mul_cancel (Nat.dvd_of_mod_eq_zero h.syncLength.2.2)).symm
  have hwords : p.syncLength / p.wordLength + 1 ≤ p.frameWords := h.frameWords.1
  obtain ⟨n, hn⟩ := Nat.exists_eq_add_of_le hwords
  have hrest : p.frameWords - (p.syncLength / p.wordLength + 1) + 1 = n + 1 := by omega
  rw [hrest, Profile.frameBits, hn]
  calc (p.syncLength / p.wordLength + 1 + n) * p.wordLength + 0
      = p.syncLength / p.wordLength * p.wordLength + (n + 1) * p.wordLength := by ring
    _ = p.syncLength + (n + 1) * p.wordLength := by rw [← hsync]

theorem Tracker.begun_tracking {c : Bool} {now : Time} (hlegal : p.Legal) (hmajor : t.major ≠ .noMajor)
    (hprofile : t.profile = some k) (hone : p.majorLength = 1 → t.major = .majorLocked)
    (hprevious : t.major = .majorLocked → t.previousId ≠ none) :
    (t.begun p c now).Tracking k p p.frameBits := by
  have hwords : p.syncLength / p.wordLength + 1 ≤ p.frameWords := hlegal.frameWords.1
  have hw : 0 < p.wordLength := by have := hlegal.wordLength; omega
  have hbits := hlegal.frameBits_eq
  refine ⟨hmajor, hprofile, hone, hprevious, fun (hlocked : t.major = .majorLocked) => ?_,
    fun _ => ⟨Nat.le_refl _, hwords, hw, hbits⟩, fun hle => ?_⟩
  · show (if t.major = .majorLocked then if p.majorLength = 1 then some p.idBase else t.previousId.map p.succId else none)
      ≠ none
    rw [if_pos hlocked]
    split_ifs
    · exact Option.some_ne_none _
    · exact fun hnone => hprevious hlocked (Option.map_eq_none_iff.1 hnone)
  · have hmore : p.wordLength ≤ (p.frameWords - (p.syncLength / p.wordLength + 1) + 1) * p.wordLength :=
      Nat.le_mul_of_pos_left _ (Nat.succ_pos _)
    omega

theorem Tracker.begun_legal (t : Tracker) {c : Bool} {now : Time} (hmismatch : t.mismatch ≤ 1)
    (hpredicted : t.mismatch = 1 → t.major = .majorLocked) : (t.begun p c now).Legal where
  extracting h := of_decide_eq_true h
  lists _ := ⟨rfl, rfl⟩
  mismatch := hmismatch
  predicted := hpredicted

/-- R21: a match in VERIFY that is not the last. -/
theorem RecordsLegal.verifyMore (h : RecordsLegal profile y t) (hmode : y.mode = .verify) (hk : y.selected = some k)
    (hp : profile k = some p) (hlegal : p.Legal) (hmore : y.verifyCount + 1 < p.verifyFrames) :
    RecordsLegal profile { y with verifyCount := y.verifyCount + 1, bitsToSync := p.frameBits } t := by
  have hbits : 1 ≤ p.frameBits := Nat.mul_pos (by have := hlegal.frameWords; omega) (by have := hlegal.wordLength; omega)
  have hverify := hlegal.verifyFrames.2
  have hfollows : y.follows = true := y.follows_iff.2 (.inl hmode)
  obtain ⟨hfollowing, -⟩ := h.following_of hfollows hk hp
  have hy : ({ y with verifyCount := y.verifyCount + 1, bitsToSync := p.frameBits } : Syn).Legal :=
    { idle := fun hno => absurd hfollows (Bool.eq_false_iff.1 hno)
      misses := h.syn.misses
      windowTimer := h.syn.windowTimer
      off := h.syn.off
      stopped := h.syn.stopped
      flowing := h.syn.flowing
      idleTimeout := h.syn.idleTimeout
      window := h.syn.window
      fill := h.syn.fill }
  exact RecordsLegal.verifying hy h.trk h.armed hmode hk hp
    { inArmedSet := hfollowing.inArmedSet
      bitsToSync := ⟨hbits, Nat.le_refl _⟩
      verify := fun _ => hmore
      verifyCount := by show y.verifyCount + 1 ≤ 15; omega
      coast := hfollowing.coast }
    (h.noLock (Syn.holdsLock_eq_false (by rw [hmode]; decide) (by rw [hmode]; decide)))

/-- R23, R48: lock gained. -/
theorem RecordsLegal.gainLock (h : RecordsLegal profile y t) (hmode : y.mode = .verify) (hk : y.selected = some k)
    (hp : profile k = some p) (hlegal : p.Legal) (now : Time) (why : Option SyncReason) :
    RecordsLegal profile { y.gainLock p with lastReason := why } ((t.lockGained k p y.polarity).begun p false now) := by
  have hbits : 1 ≤ p.frameBits := Nat.mul_pos (by have := hlegal.frameWords; omega) (by have := hlegal.wordLength; omega)
  have hverify := hlegal.verifyFrames.2
  obtain ⟨hfollowing, -⟩ := h.following_of (y.follows_iff.2 (.inl hmode)) hk hp
  have hcount := hfollowing.verify hmode
  have hy : ({ y.gainLock p with lastReason := why } : Syn).Legal :=
    { idle := fun hno => by cases hno
      misses := fun _ => rfl
      windowTimer := fun hrun => absurd rfl hrun
      off := fun hoff => by cases hoff
      stopped := fun hstopped => by cases hstopped
      flowing := h.syn.flowing
      idleTimeout := h.syn.idleTimeout
      window := h.syn.window
      fill := h.syn.fill }
  refine RecordsLegal.tracking hy (Tracker.begun_legal _ (Nat.zero_le 1) fun h1 => by cases h1)
    (fun _ => h.armed (by rw [hmode]; decide)) rfl hk hp
    { inArmedSet := hfollowing.inArmedSet
      bitsToSync := ⟨hbits, Nat.le_refl _⟩
      verify := fun hv => by cases hv
      verifyCount := by show y.verifyCount + 1 ≤ 15; omega
      coast := fun hcoast => by cases hcoast }
    (Tracker.begun_tracking hlegal ?_ rfl (fun hone => if_pos hone) ?_)
  · show (if p.majorLength = 1 then MajorState.majorLocked else .majorSearch) ≠ .noMajor
    split_ifs <;> decide
  · show (if p.majorLength = 1 then MajorState.majorLocked else .majorSearch) = .majorLocked
      → (if p.majorLength = 1 then some p.idBase else none) ≠ none
    split_ifs
    · exact fun _ => Option.some_ne_none _
    · exact fun hlocked => by cases hlocked

/-- R24, R25: a position at which lock is held on, from `y` to `y'`. -/
theorem RecordsLegal.position (h : RecordsLegal profile y t) (hlock : y.holdsLock = true) (hk : y.selected = some k)
    (hp : profile k = some p) (hlegal : p.Legal) {mode : SyncMode} {misses : Nat}
    (hmode : (mode = .locked ∧ misses = 0) ∨ (mode = .coast ∧ 1 ≤ misses ∧ misses ≤ p.coastFrames)) (why : Option SyncReason)
    (c : Bool) (now : Time) :
    RecordsLegal profile { y with mode := mode, missCount := misses, bitsToSync := p.frameBits, lastReason := why }
      (t.begun p c now) := by
  have hbits : 1 ≤ p.frameBits := Nat.mul_pos (by have := hlegal.frameWords; omega) (by have := hlegal.wordLength; omega)
  obtain ⟨hfollowing, htracking⟩ := h.following_of (Syn.follows_of_holdsLock hlock) hk hp
  have hheld := (htracking hlock).held
  have hon : y.mode ≠ .off := by rcases y.holdsLock_iff.1 hlock with hm | hm <;> rw [hm] <;> decide
  have htimer : y.windowTimer = none := by
    by_contra hrun
    have hsearching := (h.syn.windowTimer hrun).1
    rcases y.holdsLock_iff.1 hlock with hm | hm <;> rw [hm] at hsearching <;> exact absurd hsearching (by decide)
  have hlock' : ({ y with mode := mode, missCount := misses, bitsToSync := p.frameBits, lastReason := why } : Syn).holdsLock
      = true := by
    rcases hmode with ⟨rfl, -⟩ | ⟨rfl, -⟩ <;> rfl
  have hy : ({ y with mode := mode, missCount := misses, bitsToSync := p.frameBits, lastReason := why } : Syn).Legal :=
    { idle := fun hno => absurd (Syn.follows_of_holdsLock hlock') (Bool.eq_false_iff.1 hno)
      misses := fun hm => (hmode.resolve_right fun hcoast => hm hcoast.1).2
      windowTimer := fun hrun => absurd htimer hrun
      off := fun hoff => by rcases hmode with ⟨rfl, -⟩ | ⟨rfl, -⟩ <;> cases hoff
      stopped := fun hstopped => by rcases hmode with ⟨rfl, -⟩ | ⟨rfl, -⟩ <;> cases hstopped
      flowing := h.syn.flowing
      idleTimeout := h.syn.idleTimeout
      window := h.syn.window
      fill := h.syn.fill }
  exact RecordsLegal.tracking hy (Tracker.begun_legal t h.trk.mismatch h.trk.predicted) (fun _ => h.armed hon) hlock' hk hp
    { inArmedSet := hfollowing.inArmedSet
      bitsToSync := ⟨hbits, Nat.le_refl _⟩
      verify := fun hv => by rcases hmode with ⟨rfl, -⟩ | ⟨rfl, -⟩ <;> cases hv
      verifyCount := hfollowing.verifyCount
      coast := fun hcoast => (hmode.resolve_left fun hlocked => absurd (hcoast.symm.trans hlocked.1) (by decide)).2 }
    (Tracker.begun_tracking hlegal hheld.major hheld.profile hheld.oneMinor hheld.previousId)

end

end Sys2Proof.Machine
end

section
/-! The streams stay legal at every step (02, 03): a bit at the tracker, the frame's end with what is taken between its
releases, the requests, and O32. -/

namespace Sys2Proof.Machine

/-! ### What a raise and a stop leave in a stream's records -/

@[simp] theorem State.raiseSync_syn (s : State) (i : StreamId) (why : SyncReason) :
    (s.raiseSync i why).syn = s.syn.set i { s.syn.get i with lastReason := some why } := State.raiseAll_syn _ _

@[simp] theorem State.raiseSync_trk (s : State) (i : StreamId) (why : SyncReason) : (s.raiseSync i why).trk = s.trk := State.raiseAll_trk _ _

@[simp] theorem State.raiseSync_stage (s : State) (i : StreamId) (why : SyncReason) :
    (s.raiseSync i why).stage = s.stage := State.raiseAll_stage _ _

@[simp] theorem State.raiseSync_profiles (s : State) (i : StreamId) (why : SyncReason) :
    (s.raiseSync i why).profiles = s.profiles := State.raiseAll_profiles _ _

@[simp] theorem State.applyCommit_syn (s : State) (i : StreamId) : (s.applyCommit i).syn = s.syn := rfl
@[simp] theorem State.applyCommit_trk (s : State) (i : StreamId) : (s.applyCommit i).trk = s.trk := rfl
@[simp] theorem State.applyCommit_profiles (s : State) (i : StreamId) : (s.applyCommit i).profiles = s.profiles := rfl

theorem State.staled_records (s : State) (i : StreamId) (why : StaleReason) : (s.staled i why).syn = s.syn
    ∧ (s.staled i why).trk = s.trk.set i (s.trk.get i).emptied ∧ (s.staled i why).stage = s.stage
    ∧ (s.staled i why).profiles = s.profiles := ⟨rfl, rfl, rfl, rfl⟩

section
variable (s : State) (i : StreamId) (why : StaleReason)

@[simp] theorem State.extractionStop_syn : (s.extractionStop i why).syn = s.syn := by
  rw [State.extractionStop_raises]
  split <;> simp [State.staled_records]

@[simp] theorem State.extractionStop_trk :
    (s.extractionStop i why).trk = s.trk.set i (s.trk.get i).emptied := by
  rw [State.extractionStop_raises]
  split <;> simp [State.staled_records]

@[simp] theorem State.extractionStop_profiles : (s.extractionStop i why).profiles = s.profiles := by
  rw [State.extractionStop_raises]
  split <;> simp [State.staled_records]

/-- R64: after a stop no commit waits. -/
theorem State.extractionStop_stage :
    (s.extractionStop i why).stage = if (s.stage.get i).pending then s.stage.set i .reset else s.stage := by
  rw [State.extractionStop_raises]
  split <;> simp [State.staled_records]

theorem State.extractionStop_pending : ((s.extractionStop i why).stage.get i).pending = false := by
  rw [State.extractionStop_stage]
  split
  · rw [PerStream.get_set]
    rfl
  · rename_i hno
    exact Bool.eq_false_iff.2 hno

theorem State.extractionStop_staged (h : (s.stage.get i).edits.length ≤ 64) :
    ((s.extractionStop i why).stage.get i).edits.length ≤ 64 := by
  rw [State.extractionStop_stage]
  split
  · rw [PerStream.get_set]
    exact Nat.zero_le _
  · exact h

end

/-! ### One stream's change and the other stream -/

/-- The profiles and the records, the staged list and the flag of the other stream are the same. -/
structure State.SameElse (i : StreamId) (s t : State) : Prop where
  profiles : t.profiles = s.profiles
  syn : ∀ j, j ≠ i → t.syn.get j = s.syn.get j
  trk : ∀ j, j ≠ i → t.trk.get j = s.trk.get j
  stage : ∀ j, j ≠ i → t.stage.get j = s.stage.get j

theorem State.SameElse.refl (i : StreamId) (s : State) : State.SameElse i s s :=
  ⟨rfl, fun _ _ => rfl, fun _ _ => rfl, fun _ _ => rfl⟩

theorem streamChanges_sameElse (i : StreamId) (s : State) : StreamChanges i (State.SameElse i s) where
  syn _ _ h := ⟨h.profiles, fun j hj => (PerStream.get_set_ne _ hj _).trans (h.syn j hj), h.trk, h.stage⟩
  trk _ _ h := ⟨h.profiles, h.syn, fun j hj => (PerStream.get_set_ne _ hj _).trans (h.trk j hj), h.stage⟩
  raise _ _ h := ⟨by simpa using h.profiles, by simpa using h.syn, by simpa using h.trk, by simpa using h.stage⟩
  stale _ _ h := ⟨by simpa [State.staleStream] using h.profiles, by simpa [State.staleStream] using h.syn,
    by simpa [State.staleStream] using h.trk, by simpa [State.staleStream] using h.stage⟩
  commit _ h _ := ⟨h.profiles, h.syn, h.trk, fun j hj => (PerStream.get_set_ne _ hj _).trans (h.stage j hj)⟩

theorem State.StreamLegal.congr {s t : State} {i : StreamId} (h : s.StreamLegal i) (hprofile : t.profile = s.profile)
    (hsyn : t.syn.get i = s.syn.get i) (htrk : t.trk.get i = s.trk.get i) (hstage : t.stage.get i = s.stage.get i) :
    t.StreamLegal i := by
  refine RecordsLegal.streamLegal ?_ ?_ ?_
  · rw [hprofile, hsyn, htrk]
    exact h.records
  · rw [hsyn, htrk, hstage]
    exact fun hp => (s.extractionActive_iff i).1 (h.pending hp)
  · rw [hstage]
    exact h.staged

theorem State.profile_funext {s t : State} (h : t.profiles = s.profiles) : t.profile = s.profile :=
  funext fun k => State.profile_congr h k

theorem State.StreamsLegal.congr {s t : State} (h : s.StreamsLegal) (hprofiles : t.profiles = s.profiles)
    (hsyn : t.syn = s.syn) (htrk : t.trk = s.trk) (hstage : t.stage = s.stage) : t.StreamsLegal where
  profiles k p hp := h.profiles k p (by rw [← State.profile_congr hprofiles]; exact hp)
  streams i := (h.streams i).congr (State.profile_funext hprofiles) (by rw [hsyn]) (by rw [htrk]) (by rw [hstage])

/-- A change of one stream keeps both legal where it keeps that one legal. -/
theorem State.StreamsLegal.change {s t : State} {i : StreamId} (h : s.StreamsLegal) (helse : State.SameElse i s t)
    (hi : t.StreamLegal i) : t.StreamsLegal where
  profiles k p hp := h.profiles k p (by rw [← State.profile_congr helse.profiles]; exact hp)
  streams j := by
    by_cases hj : j = i
    · rw [hj]
      exact hi
    · exact (h.streams j).congr (State.profile_funext helse.profiles) (helse.syn j hj) (helse.trk j hj) (helse.stage j hj)

/-- The same for new records: the staged list stays, and a waiting commit's extraction is still active. -/
theorem State.StreamsLegal.newRecords {s t : State} {i : StreamId} (h : s.StreamsLegal) (helse : State.SameElse i s t)
    (hrecords : RecordsLegal s.profile (t.syn.get i) (t.trk.get i)) (hstage : t.stage.get i = s.stage.get i)
    (hactive : activeOf (s.syn.get i) (s.trk.get i) → activeOf (t.syn.get i) (t.trk.get i)) : t.StreamsLegal := by
  refine h.change helse (RecordsLegal.streamLegal ?_ ?_ ?_)
  · rw [State.profile_funext helse.profiles]
    exact hrecords
  · rw [hstage]
    exact fun hp => hactive ((s.extractionActive_iff i).1 ((h.streams i).pending hp))
  · rw [hstage]
    exact (h.streams i).staged

/-- The same for a change that ends in an extraction stop. -/
theorem State.StreamsLegal.stopped {s t : State} {i : StreamId} (h : s.StreamsLegal) (why : StaleReason)
    (helse : State.SameElse i s t) (hrecords : RecordsLegal s.profile (t.syn.get i) (t.trk.get i).emptied)
    (hstage : t.stage.get i = s.stage.get i) : (t.extractionStop i why).StreamsLegal := by
  have helse' : State.SameElse i s (t.extractionStop i why) := (streamChanges_sameElse i s).extractionStop helse why
  refine h.change helse' (RecordsLegal.streamLegal ?_ ?_ ?_)
  · rw [State.profile_funext helse'.profiles, State.extractionStop_syn, State.extractionStop_trk, PerStream.get_set]
    exact hrecords
  · rw [State.extractionStop_pending]
    exact fun hno => absurd hno Bool.false_ne_true
  · exact State.extractionStop_staged _ _ _ (by rw [hstage]; exact (h.streams i).staged)

/-! ### Inside a frame (R45 to R53, R55): what holds while a word's work is done -/

/-- What `RecordsLegal` says while lock is held, apart from the place in the frame. -/
structure RecordsHeld (profile : Slot → Option Profile) (y : Syn) (t : Tracker) (k : Slot) (p : Profile) : Prop where
  syn : y.Legal
  armed : ∀ k : Slot, y.armed.getLsbD k.val = true → (profile k).isSome
  lock : y.holdsLock = true
  selected : y.selected = some k
  loaded : profile k = some p
  following : y.Following k p
  trk : t.Legal
  held : t.Held k p

section
variable {profile : Slot → Option Profile} {y : Syn} {t t' : Tracker} {k : Slot} {p : Profile}

theorem RecordsLegal.held (h : RecordsLegal profile y t) (hlock : y.holdsLock = true) (hk : y.selected = some k)
    (hp : profile k = some p) : RecordsHeld profile y t k p := by
  obtain ⟨hfollowing, htracking⟩ := h.following_of (Syn.follows_of_holdsLock hlock) hk hp
  refine ⟨h.syn, h.armed ?_, hlock, hk, hp, hfollowing, h.trk, (htracking hlock).held⟩
  rcases y.holdsLock_iff.1 hlock with hm | hm <;> rw [hm] <;> decide

theorem RecordsHeld.legal (h : RecordsHeld profile y t k p)
    (hword : p.syncLength < y.bitsToSync → p.syncWords + 1 ≤ t.wordPos ∧ t.wordPos ≤ p.frameWords
      ∧ t.wordBits < p.wordLength
      ∧ y.bitsToSync + t.wordBits = p.syncLength + (p.frameWords - t.wordPos + 1) * p.wordLength)
    (hsync : y.bitsToSync ≤ p.syncLength → t.extracting = false) : RecordsLegal profile y t :=
  RecordsLegal.tracking h.syn h.trk (fun _ => h.armed) h.lock h.selected h.loaded h.following
    ⟨h.held.major, h.held.profile, h.held.oneMinor, h.held.previousId, h.held.frameId, hword, hsync⟩

theorem RecordsHeld.setTracker (h : RecordsHeld profile y t k p) (ht : t'.Legal) (hheld : t'.Held k p) :
    RecordsHeld profile y t' k p := ⟨h.syn, h.armed, h.lock, h.selected, h.loaded, h.following, ht, hheld⟩

theorem RecordsHeld.reason (h : RecordsHeld profile y t k p) (why : Option SyncReason) :
    RecordsHeld profile { y with lastReason := why } t k p :=
  ⟨⟨h.syn.idle, h.syn.misses, h.syn.windowTimer, h.syn.off, h.syn.stopped, h.syn.flowing, h.syn.idleTimeout, h.syn.window,
      h.syn.fill⟩, h.armed, h.lock, h.selected, h.loaded,
    ⟨h.following.inArmedSet, h.following.bitsToSync, h.following.verify, h.following.verifyCount, h.following.coast⟩,
    h.trk, h.held⟩

theorem RecordsHeld.counted (h : RecordsHeld profile y t k p) (hleft : 1 < y.bitsToSync) :
    RecordsHeld profile { y with bitsToSync := y.bitsToSync - 1 } t k p :=
  ⟨⟨fun hno => absurd (Syn.follows_of_holdsLock h.lock) (Bool.eq_false_iff.1 hno), h.syn.misses, h.syn.windowTimer, h.syn.off,
      h.syn.stopped, h.syn.flowing, h.syn.idleTimeout, h.syn.window, h.syn.fill⟩, h.armed, h.lock, h.selected, h.loaded,
    ⟨h.following.inArmedSet, ⟨Nat.le_sub_one_of_lt hleft, (Nat.sub_le _ _).trans h.following.bitsToSync.2⟩,
      h.following.verify, h.following.verifyCount, h.following.coast⟩, h.trk, h.held⟩

theorem RecordsHeld.countFrame (h : RecordsHeld profile y t k p) (c f : Bool) :
    RecordsHeld profile (y.countFrame c f) t k p :=
  ⟨⟨h.syn.idle, h.syn.misses, h.syn.windowTimer, h.syn.off, h.syn.stopped, h.syn.flowing, h.syn.idleTimeout, h.syn.window,
      h.syn.fill⟩, h.armed, h.lock, h.selected, h.loaded,
    ⟨h.following.inArmedSet, h.following.bitsToSync, h.following.verify, h.following.verifyCount, h.following.coast⟩,
    h.trk, h.held⟩

theorem RecordsHeld.activeOf_of_major (h : RecordsHeld profile y t k p) (hmajor : t.major = .majorLocked) : activeOf y t :=
  ⟨h.lock, hmajor⟩

/-- R50 to R53: what the ID word leaves as it was, by its outcome. -/
inductive Tracker.IdStep (t : Tracker) (k : Slot) (p : Profile) : Tracker × IdOutcome → Prop
  | quiet (t' : Tracker) (legal : t'.Legal) (held : t'.Held k p) (major : t'.major = t.major) (pos : t'.wordPos = t.wordPos) :
      IdStep t k p (t', .quiet)
  | gained (t' : Tracker) (legal : t'.Legal) (held : t'.Held k p) (major : t'.major = .majorLocked)
      (pos : t'.wordPos = t.wordPos) : IdStep t k p (t', .gained)
  | lost (t' : Tracker) (legal : t'.emptied.Legal) (held : t'.emptied.Held k p) (pos : t'.wordPos = t.wordPos) :
      IdStep t k p (t', .lost)

theorem Tracker.idWord_step (hlegal : t.Legal) (hheld : t.Held k p) (hmany : p.majorLength ≠ 1) (read : Nat) :
    t.IdStep k p (t.idWord p read) := by
  have hone {Q : Prop} (h : p.majorLength = 1) : Q := absurd h hmany
  cases hm : t.major with
  | noMajor => exact absurd hm hheld.major
  | majorSearch =>
    have hsearch : t.major ≠ .majorLocked := by rw [hm]; decide
    by_cases h : t.succeedsTo p read
    · rw [Tracker.idWord_gains hm h]
      exact .gained _ ⟨fun _ => rfl, hlegal.lists, Nat.zero_le 1, fun _ => rfl⟩
        ⟨by simp, hheld.profile, hone, fun _ => Option.some_ne_none _, fun _ => Option.some_ne_none _⟩ rfl rfl
    · rw [Tracker.idWord_searches hm h]
      exact .quiet _ ⟨hlegal.extracting, hlegal.lists, hlegal.mismatch, hlegal.predicted⟩
        ⟨hheld.major, hheld.profile, hone, fun hl => absurd hl hsearch, fun hl => absurd hl hsearch⟩ rfl rfl
  | majorLocked =>
    have hframe := hheld.frameId hm
    by_cases h : t.frameId = some read
    · rw [Tracker.idWord_matches hm h]
      exact .quiet _ ⟨hlegal.extracting, hlegal.lists, Nat.zero_le 1, fun _ => hm⟩
        ⟨hheld.major, hheld.profile, hone, fun _ => hframe, fun _ => hframe⟩ rfl rfl
    · by_cases h0 : t.mismatch = 0
      · rw [Tracker.idWord_predicts hm h h0]
        exact .quiet _ ⟨hlegal.extracting, hlegal.lists, Nat.le_refl 1, fun _ => hm⟩
          ⟨hheld.major, hheld.profile, hone, fun _ => hframe, fun _ => hframe⟩ rfl rfl
      · have hsearching : MajorState.majorSearch ≠ .majorLocked := by decide
        rw [Tracker.idWord_loses hm h h0]
        exact .lost _ ⟨fun hx => absurd hx Bool.false_ne_true, fun _ => ⟨rfl, rfl⟩, Nat.zero_le 1, fun h1 => absurd h1 Nat.zero_ne_one⟩
          ⟨by simp [Tracker.emptied], hheld.profile, hone, fun hl => absurd hl hsearching, fun hl => absurd hl hsearching⟩ rfl

/-- R57, R58: a fragment changes the two lists alone. -/
theorem Tracker.takeFragment_lists (t : Tracker) (n : Nat) (f : Fragment) :
    ∃ a g, t.takeFragment n f = { t with assembly := a, staging := g } := by
  have hplace (n : Nat) (a : Assembly) : ∃ b g, t.place n a = { t with assembly := b, staging := g } := by
    unfold Tracker.place
    split
    · exact ⟨_, _, rfl⟩
    · exact ⟨_, t.staging, rfl⟩
  unfold Tracker.takeFragment
  split
  · exact hplace _ _
  · split
    · exact ⟨t.assembly, t.staging, rfl⟩
    · split
      · exact hplace _ _
      · exact ⟨t.assembly, t.staging, rfl⟩

theorem Tracker.takeFragments_lists (count : Fragment → Nat) (fs : List Fragment) (t : Tracker) :
    ∃ a g, fs.foldl (fun t f => t.takeFragment (count f) f) t = { t with assembly := a, staging := g } := by
  induction fs generalizing t with
  | nil => exact ⟨t.assembly, t.staging, rfl⟩
  | cons f fs ih =>
    obtain ⟨a, g, h⟩ := t.takeFragment_lists (count f) f
    obtain ⟨b, e, h'⟩ := ih { t with assembly := a, staging := g }
    exact ⟨b, e, by rw [List.foldl_cons, h, h']⟩

theorem State.mapLookup_lists (s : State) (i : StreamId) (k : Slot) (p : Profile) :
    ∃ a g, s.mapLookup i k p = s.setTrk i { s.trk.get i with assembly := a, staging := g } := by
  unfold State.mapLookup
  cases (s.trk.get i).frameId with
  | none =>
    refine ⟨(s.trk.get i).assembly, (s.trk.get i).staging, ?_⟩
    show s = { s with trk := s.trk.set i (s.trk.get i) }
    rw [PerStream.set_get]
  | some minorId =>
    obtain ⟨a, g, h⟩ := Tracker.takeFragments_lists (fun f => s.fragmentCount f.channel)
      ((lookup s.map i k (s.trk.get i).wordPos minorId).map (p.fragment (s.trk.get i).word)) (s.trk.get i)
    exact ⟨a, g, congrArg (s.setTrk i) h⟩

end

/-- Lock is held at word `pos` with `left` bits to the next position, reached from `s₀` by changes of stream `i` alone. -/
structure State.Holding (s₀ s : State) (i : StreamId) (k : Slot) (p : Profile) (left pos : Nat) : Prop where
  same : State.SameElse i s₀ s
  held : RecordsHeld s₀.profile (s.syn.get i) (s.trk.get i) k p
  pending : (s.stage.get i).pending = true → activeOf (s.syn.get i) (s.trk.get i)
  staged : (s.stage.get i).edits.length ≤ 64
  left : (s.syn.get i).bitsToSync = left
  pos : (s.trk.get i).wordPos = pos

section
variable {s₀ s : State} {i : StreamId} {k : Slot} {p : Profile} {left pos : Nat}

theorem State.Holding.setTrk (h : State.Holding s₀ s i k p left pos) {t : Tracker} (ht : t.Legal) (hheld : t.Held k p)
    (hmajor : (s.trk.get i).major = .majorLocked → t.major = .majorLocked) {pos' : Nat} (hpos : t.wordPos = pos') :
    State.Holding s₀ (s.setTrk i t) i k p left pos' where
  same := (streamChanges_sameElse i s₀).trk _ _ h.same
  held := by
    rw [State.setTrk_trk, PerStream.get_set]
    exact h.held.setTracker ht hheld
  pending hp := by
    rw [State.setTrk_trk, PerStream.get_set]
    obtain ⟨hlock, hm⟩ := h.pending hp
    exact ⟨hlock, hmajor hm⟩
  staged := h.staged
  left := h.left
  pos := by rw [State.setTrk_trk, PerStream.get_set, hpos]

theorem State.Holding.raiseSync (h : State.Holding s₀ s i k p left pos) (why : SyncReason) :
    State.Holding s₀ (s.raiseSync i why) i k p left pos where
  same := (streamChanges_sameElse i s₀).raiseSync h.same why
  held := by
    rw [State.raiseSync_syn, State.raiseSync_trk, PerStream.get_set]
    exact h.held.reason _
  pending hp := by
    rw [State.raiseSync_stage] at hp
    rw [State.raiseSync_syn, State.raiseSync_trk, PerStream.get_set]
    exact h.pending hp
  staged := by
    rw [State.raiseSync_stage]
    exact h.staged
  left := by
    rw [State.raiseSync_syn, PerStream.get_set]
    exact h.left
  pos := by
    rw [State.raiseSync_trk]
    exact h.pos

/-- R45 step 2: the ID word. -/
theorem State.Holding.idHandling (h : State.Holding s₀ s i k p left pos) (hmany : p.majorLength ≠ 1) :
    State.Holding s₀ (s.idHandling i p) i k p left pos := by
  have hstep := Tracker.idWord_step h.held.trk h.held.held hmany (p.idRead (s.trk.get i).word)
  generalize hout : (s.trk.get i).idWord p (p.idRead (s.trk.get i).word) = out at hstep
  cases hstep with
  | quiet t' legal held major hpos =>
    rw [State.idHandling_quiet hout]
    exact h.setTrk legal held (fun hm => major.trans hm) (hpos.trans h.pos)
  | gained t' legal held major hpos =>
    rw [State.idHandling_gained hout]
    exact (h.setTrk legal held (fun _ => major) (hpos.trans h.pos)).raiseSync _
  | lost t' legal held hpos =>
    rw [State.idHandling_lost hout]
    refine
      { same := (streamChanges_sameElse i s₀).extractionStop ((streamChanges_sameElse i s₀).raiseSync
          ((streamChanges_sameElse i s₀).trk _ _ h.same) _) _
        held := ?_
        pending := ?_
        staged := State.extractionStop_staged _ _ _ (by rw [State.raiseSync_stage]; exact h.staged)
        left := ?_
        pos := ?_ }
    · rw [State.extractionStop_syn, State.extractionStop_trk, State.raiseSync_syn, State.raiseSync_trk, State.setTrk_trk,
        PerStream.get_set, PerStream.get_set, PerStream.get_set]
      exact (h.held.setTracker legal held).reason _
    · rw [State.extractionStop_pending]
      exact fun hno => absurd hno Bool.false_ne_true
    · rw [State.extractionStop_syn, State.raiseSync_syn, PerStream.get_set]
      exact h.left
    · rw [State.extractionStop_trk, State.raiseSync_trk, State.setTrk_trk, PerStream.get_set, PerStream.get_set]
      exact hpos.trans h.pos

/-- R45 step 3: the lookup. -/
theorem State.Holding.mapLookup (h : State.Holding s₀ s i k p left pos) (hextracting : (s.trk.get i).extracting = true) :
    State.Holding s₀ (s.mapLookup i k p) i k p left pos := by
  obtain ⟨a, g, hlists⟩ := s.mapLookup_lists i k p
  have hlegal := h.held.trk
  have hheld := h.held.held
  rw [hlists]
  exact h.setTrk (t := { s.trk.get i with assembly := a, staging := g })
    ⟨hlegal.extracting, fun hno => absurd hextracting (Bool.eq_false_iff.1 hno), hlegal.mismatch, hlegal.predicted⟩
    ⟨hheld.major, hheld.profile, hheld.oneMinor, hheld.previousId, hheld.frameId⟩ id h.pos

/-- The streams are legal again once the records say where in the frame the stream is. -/
theorem State.Holding.streamsLegal (h : State.Holding s₀ s i k p left pos) (hs : s₀.StreamsLegal)
    (hword : p.syncLength < left → p.syncWords + 1 ≤ pos ∧ pos ≤ p.frameWords ∧ (s.trk.get i).wordBits < p.wordLength
      ∧ left + (s.trk.get i).wordBits = p.syncLength + (p.frameWords - pos + 1) * p.wordLength)
    (hsync : left ≤ p.syncLength → (s.trk.get i).extracting = false) : s.StreamsLegal := by
  refine hs.change h.same (RecordsLegal.streamLegal ?_ h.pending h.staged)
  rw [State.profile_funext h.same.profiles]
  exact h.held.legal (by rw [h.left, h.pos]; exact hword) (by rw [h.left]; exact hsync)

end

end Sys2Proof.Machine
end

section
/-! The streams stay legal at every step (02, 03): the requests, what is taken between two releases, and O32. -/

namespace Sys2Proof.Machine

/-! ### The changes requests make (R189) -/

theorem State.mapChannels_streamsLegal {s : State} (h : s.StreamsLegal) (f : ChannelId → Channel → Channel) :
    (s.mapChannels f).StreamsLegal :=
  h.congr (State.mapChannels_profiles s f) (State.mapChannels_syn s f) (State.mapChannels_trk s f)
    (State.mapChannels_stage s f)

/-- R11: a slot that is not in use is armed by no stream that is not OFF. -/
theorem State.not_armed_of_free {s : State} {k : Slot} (h : s.slotInUse k = false) (i : StreamId)
    (hon : (s.syn.get i).mode ≠ .off) : (s.syn.get i).armed.getLsbD k.val = false := by
  simp only [State.slotInUse, Bool.or_eq_false_iff] at h
  have harmed : s.armedBy k i = false := by
    cases i
    · exact h.1.1
    · exact h.1.2
  rw [State.armedBy, decide_eq_true hon, Bool.and_true] at harmed
  exact harmed

/-- R12, R14: a slot that is not in use changes; no stream that is not OFF has it armed or selected. -/
theorem State.StreamsLegal.setProfile {s : State} (h : s.StreamsLegal) {k : Slot} (hfree : s.slotInUse k = false)
    {v : Option Profile} (hv : ∀ p, v = some p → p.Legal) : (s.setProfile k v).StreamsLegal where
  profiles j p hp := by
    rw [State.profile_setProfile] at hp
    split_ifs at hp
    · exact hv p hp
    · exact h.profiles j p hp
  streams i := by
    have hsame (hon : (s.syn.get i).mode ≠ .off) (j : Slot) (hj : (s.syn.get i).armed.getLsbD j.val = true) :
        (s.setProfile k v).profile j = s.profile j := by
      rw [State.profile_setProfile, if_neg]
      rintro rfl
      rw [State.not_armed_of_free hfree i hon] at hj
      cases hj
    have hs := h.streams i
    refine ⟨hs.syn, hs.trk, fun hon j hj => ?_, fun hf => ?_, hs.noLock, hs.pending, hs.staged⟩
    · rw [hsame hon j hj]
      exact hs.armed hon j hj
    · obtain ⟨j, p, hj, hp, hfollowing, htracking⟩ := hs.following hf
      have hon : (s.syn.get i).mode ≠ .off := by
        rcases (s.syn.get i).follows_iff.1 hf with hm | hm | hm <;> rw [hm] <;> decide
      exact ⟨j, p, hj, (hsame hon j hfollowing.inArmedSet).trans hp, hfollowing, htracking⟩

theorem State.StreamsLegal.setStage {s : State} (h : s.StreamsLegal) {i : StreamId} {g : EditStage}
    (hpending : g.pending = true → s.extractionActive i = true) (hstaged : g.edits.length ≤ 64) :
    (s.setStage i g).StreamsLegal where
  profiles := h.profiles
  streams j := by
    by_cases hj : j = i
    · subst hj
      have hs := h.streams j
      refine ⟨hs.syn, hs.trk, hs.armed, hs.following, hs.noLock, ?_, ?_⟩
      · rw [State.setStage_stage, PerStream.get_set]
        exact hpending
      · rw [State.setStage_stage, PerStream.get_set]
        exact hstaged
    · exact (h.streams j).congr rfl rfl rfl (PerStream.get_set_ne _ hj _)

theorem State.StreamsLegal.raiseAll {s : State} (h : s.StreamsLegal) (rs : List Raise) : (s.raiseAll rs).StreamsLegal :=
  h.congr (State.raiseAll_profiles s rs) (State.raiseAll_syn s rs) (State.raiseAll_trk s rs) (State.raiseAll_stage s rs)

theorem State.StreamsLegal.applyCommit {s : State} (h : s.StreamsLegal) (i : StreamId) : (s.applyCommit i).StreamsLegal :=
  (h.setStage (i := i) (g := .reset) (fun hp => by cases hp) (Nat.zero_le _)).congr rfl rfl rfl rfl

theorem State.StreamsLegal.settlePending {s : State} (h : s.StreamsLegal) (i : StreamId) :
    (s.settlePending i).StreamsLegal := by
  rw [State.settlePending_eq]
  split
  · exact (h.applyCommit i).raiseAll _
  · exact h

theorem tableChanges_streamsLegal : TableChanges State.StreamsLegal where
  draws _ _ h := h.congr rfl rfl rfl rfl
  raise _ rs h := h.raiseAll rs
  load _ _ p h hp hfree := h.setProfile hfree fun q hq => by cases hq; exact hp
  drop _ _ h hfree := h.setProfile hfree fun q hq => by cases hq
  stage s i edit h hp hroom _ := h.setStage (fun hp' => absurd hp' (Bool.eq_false_iff.1 hp)) (by
    rw [List.length_append]
    exact hroom)
  discard _ _ h := h.setStage (fun hp => by cases hp) (Nat.zero_le _)
  accept s i h _ hactive := h.setStage (fun _ => hactive) (h.streams i).staged
  commit _ i h _ := h.applyCommit i
  bind _ _ _ h _ _ _ := h.congr rfl rfl rfl rfl
  unbind _ _ _ h _ _ _ := h.congr rfl rfl rfl rfl
  channel _ _ _ _ h _ _ _ := h.congr rfl rfl rfl rfl
  channels _ f h _ _ := State.mapChannels_streamsLegal h f
  rosterList _ _ _ h _ _ := h.congr rfl rfl rfl rfl
  rosterStart _ _ _ _ h _ _ := h.congr rfl rfl rfl rfl
  rosterStop _ _ h := h.congr rfl rfl rfl rfl
  mask _ _ h := h.congr rfl rfl rfl rfl
  grant _ _ h := h.congr rfl rfl rfl rfl

/-- R36, R42: a stream goes OFF. -/
theorem State.StreamsLegal.disarm {s : State} (h : s.StreamsLegal) (i : StreamId) (why : SyncReason) :
    (s.disarm i why).StreamsLegal := by
  have hrecords := (h.streams i).records.turnOff (some why)
  unfold State.disarm
  refine h.stopped .disarmed ((streamChanges_sameElse i s).raiseSync ((streamChanges_sameElse i s).trk _ _
    ((streamChanges_sameElse i s).syn _ _ (.refl i s))) why) ?_ ?_
  · rw [State.raiseSync_syn, State.raiseSync_trk, PerStream.get_set, State.setTrk_trk, PerStream.get_set, State.setTrk_syn,
      State.setSyn_syn, PerStream.get_set]
    exact hrecords
  · rw [State.raiseSync_stage]
    rfl

theorem State.StreamsLegal.arm {s : State} (h : s.StreamsLegal) {i : StreamId} {f : ArmFields} (hf : f.failing = none)
    (hwindow : f.window ≤ 65535) (hloaded : s.armNamesEmpty f.set = false)
    (hmode : (s.syn.get i).mode = .off ∨ (s.syn.get i).mode = .stopped) :
    ((s.setSyn i ((s.syn.get i).arm f s.timebase)).raiseSync i .armed).StreamsLegal := by
  have hslots (k : Slot) (hk : (BitVec.ofNat 4 f.set).getLsbD k.val = true) : (s.profile k).isSome := by
    rw [BitVec.getLsbD_ofNat] at hk
    have hnone := List.any_eq_false.1 hloaded k (List.mem_finRange k)
    cases hp : s.profile k with
    | some p => rfl
    | none => simp_all
  have hrecords := (h.streams i).records.arm hmode hf hwindow hslots s.timebase (some .armed)
  refine h.newRecords ((streamChanges_sameElse i s).raiseSync ((streamChanges_sameElse i s).syn _ _ (.refl i s)) _) ?_ ?_ ?_
  · rw [State.raiseSync_syn, State.raiseSync_trk, PerStream.get_set, State.setSyn_syn, PerStream.get_set]
    exact hrecords
  · rw [State.raiseSync_stage]
    rfl
  · rintro ⟨hlock, -⟩
    rcases (s.syn.get i).holdsLock_iff.1 hlock with hm | hm <;> rw [hm] at hmode <;> exact absurd hmode (by decide)

theorem requestKeeps_streamsLegal : RequestKeeps State.StreamsLegal :=
  { RequestChanges.runsKeep
      { tableChanges_streamsLegal with
        arm := fun _ _ _ h hf hwindow hloaded hmode => h.arm hf hwindow (by simpa using hloaded) hmode
        disarm := fun _ i h _ => h.disarm i _ } with
    link := fun _ _ _ _ _ _ _ h => h.congr rfl rfl rfl rfl }

/-! ### Between the releases and at the frame's end (R60 to R63, R147) -/

theorem State.StreamsLegal.sendInside {s : State} (h : s.StreamsLegal) : s.sendInside.StreamsLegal :=
  h.congr s.sendInside_profiles s.sendInside_syn s.sendInside_trk s.sendInside_stage

/-- R147: a property that a turn, a send and the count of free values keep is kept by the requests after a release. -/
theorem State.requestsBetween_keeps {P : State → Prop} {i : StreamId} (turn : ∀ s, P s → P (s.takeTurn i))
    (send : ∀ s, P s → P s.sendInside) (counted : ∀ s n, P s → P { s with draws := n }) {s : State} (h : P s) :
    P (s.requestsBetween i) := by
  have hturns (n : Nat) (u : State) (hu : P u) : P ((State.takeTurn i)^[n] u) := by
    induction n generalizing u with
    | zero => exact hu
    | succ n ih => exact ih _ (turn u hu)
  unfold State.requestsBetween
  split
  · exact hturns _ _ (counted _ _ (send s h))
  · exact h

theorem State.StreamsLegal.releaseAll {s : State} (h : s.StreamsLegal) (i : StreamId) (t : Tracker) (g : List Staged) :
    (State.releaseAll i t s g).StreamsLegal := by
  induction g generalizing s with
  | nil => exact h
  | cons g rest ih =>
    exact ih (State.requestsBetween_keeps (P := State.StreamsLegal)
      (fun _ h => requestKeeps_streamsLegal.takeTurn h i) (fun _ h => h.sendInside) (fun _ _ h => h.congr rfl rfl rfl rfl)
      (tableChanges_streamsLegal.release h i g.channel _))

theorem RecordsLegal.countMajor {profile : Slot → Option Profile} {y : Syn} {t : Tracker} (h : RecordsLegal profile y t)
    (n : BitVec 32) : RecordsLegal profile y { t with majorCount := n } where
  syn := h.syn
  trk := ⟨h.trk.extracting, h.trk.lists, h.trk.mismatch, h.trk.predicted⟩
  armed := h.armed
  following hf := by
    obtain ⟨k, p, hk, hp, hfollowing, htracking⟩ := h.following hf
    refine ⟨k, p, hk, hp, hfollowing, fun hlock => ?_⟩
    have ht := htracking hlock
    exact ⟨ht.major, ht.profile, ht.oneMinor, ht.previousId, ht.frameId, ht.word, ht.syncBits⟩
  noLock hno := by
    have ht := h.noLock hno
    exact ⟨ht.major, ht.profile, ht.previousId, ht.frameId, ht.mismatch⟩

theorem State.StreamsLegal.majorBoundary {s : State} (h : s.StreamsLegal) (i : StreamId) :
    (s.majorBoundary i).StreamsLegal := by
  have hcounted : (s.setTrk i { s.trk.get i with majorCount := (s.trk.get i).majorCount + 1 }).StreamsLegal := by
    refine h.newRecords ((streamChanges_sameElse i s).trk _ _ (.refl i s)) ?_ rfl ?_
    · rw [State.setTrk_trk, PerStream.get_set]
      exact (h.streams i).records.countMajor _
    · rw [State.setTrk_trk, PerStream.get_set]
      exact id
  unfold State.majorBoundary
  refine State.StreamsLegal.settlePending ?_ i
  unfold State.rosterBoundary
  refine State.StreamsLegal.raiseAll ?_ _
  exact hcounted.congr rfl rfl rfl rfl

/-! ### A word's work and a frame's end in their parts (R45, R60) -/

/-- R45 step 2: the ID word is handled. -/
def State.idTaken (s : State) (i : StreamId) (p : Profile) : State :=
  if p.idPosition = some (s.trk.get i).wordPos then s.idHandling i p else s

/-- R45 steps 2 and 3: the word's work. -/
def State.wordTaken (s : State) (i : StreamId) (k : Slot) (p : Profile) : State :=
  if ((s.idTaken i p).trk.get i).extracting then (s.idTaken i p).mapLookup i k p else s.idTaken i p

theorem State.wordComplete_eq (s : State) (i : StreamId) (k : Slot) (p : Profile) :
    s.wordComplete i k p = if (s.trk.get i).wordPos = p.frameWords then (s.wordTaken i k p).minorFrameEnd i p
      else (s.wordTaken i k p).setTrk i
        { (s.wordTaken i k p).trk.get i with wordPos := (s.trk.get i).wordPos + 1, wordBits := 0, word := 0 } := rfl

/-- R60 step 1: the frame's flags decided. -/
def Tracker.judged (t : Tracker) (p : Profile) : Tracker := { t with flags := { t.flags with checkFail := t.checkFails p } }

/-- R60 steps 2 and 4: the frame counted and the lists handed over. -/
def State.ended (s : State) (i : StreamId) (p : Profile) : State :=
  (s.setTrk i ((s.trk.get i).judged p).endFrame).setSyn i
    ((s.syn.get i).countFrame (s.trk.get i).flags.coasted ((s.trk.get i).checkFails p))

/-- R60 step 3: the samples released. -/
def State.releasedEnd (s : State) (i : StreamId) (p : Profile) : State :=
  if (s.trk.get i).extracting then State.releaseAll i ((s.trk.get i).judged p) (s.ended i p) (s.trk.get i).staging
  else s.ended i p

theorem State.minorFrameEnd_eq (s : State) (i : StreamId) (p : Profile) :
    s.minorFrameEnd i p = if (s.trk.get i).atBoundary p then (s.releasedEnd i p).majorBoundary i else s.releasedEnd i p :=
  rfl

section
variable {s₀ s : State} {i : StreamId} {k : Slot} {p : Profile} {left pos : Nat}

theorem State.Holding.ended (h : State.Holding s₀ s i k p left pos) : State.Holding s₀ (s.ended i p) i k p left pos := by
  have hlegal := h.held.trk
  have hheld := h.held.held
  have htrk := h.setTrk (t := ((s.trk.get i).judged p).endFrame) ⟨fun hx => absurd hx Bool.false_ne_true,
    fun _ => ⟨rfl, rfl⟩, hlegal.mismatch, hlegal.predicted⟩
    ⟨hheld.major, hheld.profile, hheld.oneMinor, hheld.previousId, hheld.frameId⟩ id h.pos
  unfold State.ended
  exact
    { same := (streamChanges_sameElse i s₀).syn _ _ htrk.same
      held := by
        rw [State.setSyn_syn, PerStream.get_set]
        exact htrk.held.countFrame _ _
      pending := by
        rw [State.setSyn_syn, PerStream.get_set]
        exact htrk.pending
      staged := htrk.staged
      left := by
        rw [State.setSyn_syn, PerStream.get_set]
        exact htrk.left
      pos := htrk.pos }

/-- R60: the frame's end. -/
theorem State.Holding.minorFrameEnd (h : State.Holding s₀ s i k p p.syncLength pos) (hs : s₀.StreamsLegal) :
    (s.minorFrameEnd i p).StreamsLegal := by
  have hended : (s.ended i p).StreamsLegal := by
    refine h.ended.streamsLegal hs (fun hlt => absurd hlt (Nat.lt_irrefl _)) fun _ => ?_
    show ((s.trk.set i ((s.trk.get i).judged p).endFrame).get i).extracting = false
    rw [PerStream.get_set]
    rfl
  have hreleased : (s.releasedEnd i p).StreamsLegal := by
    unfold State.releasedEnd
    split
    · exact hended.releaseAll i _ _
    · exact hended
  rw [State.minorFrameEnd_eq]
  split
  · exact hreleased.majorBoundary i
  · exact hreleased

theorem State.Holding.wordTaken (h : State.Holding s₀ s i k p left pos) (hp : p.Legal) :
    State.Holding s₀ (s.wordTaken i k p) i k p left pos := by
  have hid : State.Holding s₀ (s.idTaken i p) i k p left pos := by
    unfold State.idTaken
    split
    · rename_i hid
      refine h.idHandling fun hone => ?_
      rw [(hp.oneMinor hone).1] at hid
      cases hid
    · exact h
  unfold State.wordTaken
  split
  · exact hid.mapLookup ‹_›
  · exact hid

/-- R45: the completed word, whose last bit left `left` bits to the next position. -/
theorem State.Holding.wordComplete (h : State.Holding s₀ s i k p left pos) (hs : s₀.StreamsLegal) (hp : p.Legal)
    (hpos : p.syncWords + 1 ≤ pos ∧ pos ≤ p.frameWords)
    (hleft : left = p.syncLength + (p.frameWords - pos) * p.wordLength) : (s.wordComplete i k p).StreamsLegal := by
  have htaken := h.wordTaken hp
  have hbound := hp.wordLength.1
  rw [State.wordComplete_eq, h.pos]
  generalize s.wordTaken i k p = b at htaken ⊢
  split
  · rename_i hlast
    subst hlast
    have hend : left = p.syncLength := by rw [hleft, Nat.sub_self, Nat.zero_mul, Nat.add_zero]
    subst hend
    exact htaken.minorFrameEnd hs
  · rename_i hmore
    have hlegal := htaken.held.trk
    have hheld := htaken.held.held
    have hnext : State.Holding s₀ (b.setTrk i { b.trk.get i with wordPos := pos + 1, wordBits := 0, word := 0 }) i k p left
        (pos + 1) :=
      htaken.setTrk (t := { b.trk.get i with wordPos := pos + 1, wordBits := 0, word := 0 })
        ⟨hlegal.extracting, hlegal.lists, hlegal.mismatch, hlegal.predicted⟩
        ⟨hheld.major, hheld.profile, hheld.oneMinor, hheld.previousId, hheld.frameId⟩ id rfl
    have hrest : 0 < (p.frameWords - pos) * p.wordLength := Nat.mul_pos (by omega) (by omega)
    refine hnext.streamsLegal hs (fun _ => ⟨by omega, by omega, ?_, ?_⟩) fun hle => by omega
    · rw [State.setTrk_trk, PerStream.get_set]
      show 0 < p.wordLength
      omega
    · have hpos' : p.frameWords - (pos + 1) + 1 = p.frameWords - pos := by omega
      rw [State.setTrk_trk, PerStream.get_set, hleft, hpos']
      rfl

end

end Sys2Proof.Machine
end

section
/-! The streams stay legal at every step (02, 03): the events of a stream, the resets, and O32; the reset state (O15). -/

namespace Sys2Proof.Machine

/-! ### New records for one stream -/

section
variable {s : State} {i : StreamId} {y : Syn} {t : Tracker}

theorem State.StreamsLegal.setRecords (h : s.StreamsLegal) (hrecords : RecordsLegal s.profile y t)
    (hactive : activeOf (s.syn.get i) (s.trk.get i) → activeOf y t) (rs : List Raise) :
    (State.raiseAll { s with syn := s.syn.set i y, trk := s.trk.set i t } rs).StreamsLegal := by
  refine State.StreamsLegal.raiseAll ?_ rs
  refine h.newRecords ((streamChanges_sameElse i s).trk _ t ((streamChanges_sameElse i s).syn _ y (.refl i s))) ?_ rfl ?_
  · simp only [PerStream.get_set]
    exact hrecords
  · simp only [PerStream.get_set]
    exact hactive

theorem State.StreamsLegal.setSyn (h : s.StreamsLegal) (hrecords : RecordsLegal s.profile y (s.trk.get i))
    (hactive : activeOf (s.syn.get i) (s.trk.get i) → activeOf y (s.trk.get i)) : (s.setSyn i y).StreamsLegal := by
  refine h.newRecords ((streamChanges_sameElse i s).syn _ y (.refl i s)) ?_ rfl ?_
  · rw [State.setSyn_syn, PerStream.get_set]
    exact hrecords
  · rw [State.setSyn_syn, PerStream.get_set]
    exact hactive

/-- A change of both records, its raise and the extraction stop after it. -/
theorem State.StreamsLegal.setStopped (h : s.StreamsLegal) (hrecords : RecordsLegal s.profile y t.emptied) (rs : List Raise)
    (why : StaleReason) :
    ((State.raiseAll { s with syn := s.syn.set i y, trk := s.trk.set i t } rs).extractionStop i why).StreamsLegal := by
  refine h.stopped why ((streamChanges_sameElse i s).raise _ rs ((streamChanges_sameElse i s).trk _ t
    ((streamChanges_sameElse i s).syn _ y (.refl i s)))) ?_ ?_
  · rw [State.raiseAll_syn, State.raiseAll_trk]
    simp only [PerStream.get_set]
    exact hrecords
  · exact congrArg (PerStream.get · i) (State.raiseAll_stage _ rs)

theorem not_activeOf {y : Syn} {t : Tracker} {Q : Prop} (hlocked : y.mode ≠ .locked) (hcoast : y.mode ≠ .coast)
    (h : activeOf y t) : Q :=
  absurd h.1 (Bool.eq_false_iff.1 (Syn.holdsLock_eq_false hlocked hcoast))

theorem RecordsLegal.timed {profile : Slot → Option Profile} (h : RecordsLegal profile y t) (time : Option Time) :
    RecordsLegal profile { y with frameTime := time } t where
  syn := ⟨h.syn.idle, h.syn.misses, h.syn.windowTimer, h.syn.off, h.syn.stopped, h.syn.flowing, h.syn.idleTimeout,
    h.syn.window, h.syn.fill⟩
  trk := h.trk
  armed := h.armed
  following hf := by
    obtain ⟨k, p, hk, hp, hfollowing, htracking⟩ := h.following hf
    exact ⟨k, p, hk, hp, ⟨hfollowing.inArmedSet, hfollowing.bitsToSync, hfollowing.verify, hfollowing.verifyCount,
      hfollowing.coast⟩, htracking⟩
  noLock := h.noLock

end

/-! ### The expected sync position (R21 to R26) -/

section
variable {s : State} {i : StreamId} {bit : Bool} {k : Slot} {p : Profile}

/-- The record with its frame time, before the count is touched. -/
def Syn.arrived (y : Syn) (bit : Bool) (now : Time) : Syn := { y.record bit now with frameTime := some now }

theorem State.StreamsLegal.arrived (h : s.StreamsLegal) (hon : (s.syn.get i).mode ≠ .off) :
    RecordsLegal s.profile ((s.syn.get i).arrived bit s.timebase) (s.trk.get i) :=
  ((h.streams i).records.record hon bit s.timebase).timed _

theorem State.StreamsLegal.loseLock (h : s.StreamsLegal) {z y : Syn} (hz : RecordsLegal s.profile z (s.trk.get i))
    (hon : z.mode ≠ .off) (hsame : y.loseLock s.timebase = z.loseLock s.timebase) (why : SyncReason) :
    ((s.setSyn i y).loseLock i why).StreamsLegal := by
  rw [State.loseLock_eq, State.setSyn_get]
  simp only [State.setSyn, PerStream.set_set]
  exact h.setStopped (by rw [hsame]; exact hz.loseLock hon s.timebase (some why)) _ _

theorem State.StreamsLegal.verifyPosition (h : s.StreamsLegal) (hmode : (s.syn.get i).mode = .verify)
    (hk : (s.syn.get i).selected = some k) (hp : s.profile k = some p) :
    ((s.setSyn i ((s.syn.get i).positioned bit s.timebase)).verifyPosition i k p).StreamsLegal := by
  have hsyn := s.setSyn_get i ((s.syn.get i).positioned bit s.timebase)
  have harrived := h.arrived (i := i) (bit := bit) (by rw [hmode]; decide)
  have hlegal := h.profiles k p hp
  have hquiet {Q : Prop} : activeOf (s.syn.get i) (s.trk.get i) → Q :=
    not_activeOf (by rw [hmode]; decide) (by rw [hmode]; decide)
  cases hmatch : ((s.syn.get i).positioned bit s.timebase).expectedMatches p with
  | false =>
    rw [State.verifyPosition_miss (by rw [hsyn]; exact hmatch), hsyn, State.setSyn_setSyn]
    exact h.setSyn (harrived.verifyFailed hmode) hquiet
  | true =>
    by_cases hmore : (s.syn.get i).verifyCount + 1 < p.verifyFrames
    · rw [State.verifyPosition_more (by rw [hsyn]; exact hmatch) (by rw [hsyn]; exact hmore), hsyn, State.setSyn_setSyn]
      exact h.setSyn (harrived.verifyMore hmode hk hp hlegal hmore) hquiet
    · rw [State.verifyPosition_done (by rw [hsyn]; exact hmatch) (by rw [hsyn]; exact Nat.le_of_not_lt hmore),
        State.gainLock_eq, hsyn]
      simp only [State.setSyn, PerStream.set_set]
      exact h.setRecords (harrived.gainLock hmode hk hp hlegal s.timebase (some .verified)) hquiet _

/-- R24, R25: the frame that begins at a position where lock is held on keeps the major state. -/
theorem activeOf_begun {y z : Syn} {t : Tracker} (hz : z.holdsLock = true) (c : Bool) (now : Time) (h : activeOf y t) :
    activeOf z (t.begun p c now) := ⟨hz, h.2⟩

theorem State.StreamsLegal.lockedPosition (h : s.StreamsLegal) (hmode : (s.syn.get i).mode = .locked)
    (hk : (s.syn.get i).selected = some k) (hp : s.profile k = some p) :
    ((s.setSyn i ((s.syn.get i).positioned bit s.timebase)).lockedPosition i p).StreamsLegal := by
  have hsyn := s.setSyn_get i ((s.syn.get i).positioned bit s.timebase)
  have harrived := h.arrived (i := i) (bit := bit) (by rw [hmode]; decide)
  have hlock : ((s.syn.get i).arrived bit s.timebase).holdsLock = true := Syn.holdsLock_iff _ |>.2 (.inl hmode)
  have hlegal := h.profiles k p hp
  have hon : ((s.syn.get i).arrived bit s.timebase).mode ≠ .off := fun hoff => absurd (hoff.symm.trans hmode) (by decide)
  have hmisses : (s.syn.get i).missCount = 0 := (h.streams i).syn.misses (by rw [hmode]; decide)
  cases hmatch : ((s.syn.get i).positioned bit s.timebase).expectedMatches p with
  | true =>
    rw [State.lockedPosition_match (by rw [hsyn]; exact hmatch), hsyn, State.setSyn_setSyn, State.frameBegin_eq]
    exact h.setRecords (rs := []) (harrived.position hlock hk hp hlegal (.inl ⟨hmode, hmisses⟩) _ false s.timebase)
      (activeOf_begun hlock _ _)
  | false =>
    rw [State.lockedPosition_miss (by rw [hsyn]; exact hmatch)]
    split
    · rename_i hallowed
      rw [State.coastOn_first, hsyn]
      simp only [State.setSyn, PerStream.set_set]
      exact h.setRecords (harrived.position hlock hk hp hlegal (.inr ⟨rfl, Nat.le_refl 1, hallowed⟩) _ true s.timebase)
        (activeOf_begun rfl _ _) _
    · exact h.loseLock (y := (s.syn.get i).positioned bit s.timebase) harrived hon rfl .misses

theorem State.StreamsLegal.coastPosition (h : s.StreamsLegal) (hmode : (s.syn.get i).mode = .coast)
    (hk : (s.syn.get i).selected = some k) (hp : s.profile k = some p) :
    ((s.setSyn i ((s.syn.get i).positioned bit s.timebase)).coastPosition i p).StreamsLegal := by
  have hsyn := s.setSyn_get i ((s.syn.get i).positioned bit s.timebase)
  have harrived := h.arrived (i := i) (bit := bit) (by rw [hmode]; decide)
  have hlock : ((s.syn.get i).arrived bit s.timebase).holdsLock = true := Syn.holdsLock_iff _ |>.2 (.inr hmode)
  have hlegal := h.profiles k p hp
  have hon : ((s.syn.get i).arrived bit s.timebase).mode ≠ .off := fun hoff => absurd (hoff.symm.trans hmode) (by decide)
  cases hmatch : ((s.syn.get i).positioned bit s.timebase).expectedMatches p with
  | true =>
    rw [State.coastPosition_match (by rw [hsyn]; exact hmatch), State.recover_eq, hsyn]
    simp only [State.setSyn, PerStream.set_set]
    exact h.setRecords (harrived.position hlock hk hp hlegal (.inl ⟨rfl, rfl⟩) _ false s.timebase) (activeOf_begun rfl _ _) _
  | false =>
    rw [State.coastPosition_miss (by rw [hsyn]; exact hmatch), hsyn]
    split
    · rename_i hallowed
      rw [State.coastOn_again, hsyn]
      simp only [State.setSyn, PerStream.set_set]
      exact h.setRecords (rs := []) (harrived.position hlock hk hp hlegal (.inr ⟨rfl, Nat.le_add_left 1 _, hallowed⟩) _ true
        s.timebase) (activeOf_begun rfl _ _)
    · exact h.loseLock (y := (s.syn.get i).positioned bit s.timebase) harrived hon rfl .misses

/-! ### A bit (R15, R19, R20, R45) -/

theorem State.StreamsLegal.recorded (h : s.StreamsLegal) (hon : (s.syn.get i).mode ≠ .off) :
    (s.setSyn i ((s.syn.get i).record bit s.timebase)).StreamsLegal :=
  h.setSyn ((h.streams i).records.record hon bit s.timebase) id

theorem State.StreamsLegal.search (h : s.StreamsLegal) (hmode : (s.syn.get i).mode = .hunt) : (s.search i).StreamsLegal := by
  cases hselect : s.searchSelect (s.syn.get i) with
  | none => rwa [State.search_none hselect]
  | some found =>
    obtain ⟨k, p, pol⟩ := found
    rw [State.search_some hselect]
    obtain ⟨j, -, hj⟩ := List.exists_of_findSome?_eq_some hselect
    split_ifs at hj with harmed
    cases hp : s.profile j with
    | none => simp [hp] at hj
    | some q =>
      rw [hp] at hj
      obtain ⟨pol', -, hfound⟩ := Option.map_eq_some_iff.1 hj
      cases hfound
      exact h.setSyn ((h.streams i).records.select hmode harmed hp (h.profiles k p hp) pol s.timebase)
        (not_activeOf (by rw [hmode]; decide) (by rw [hmode]; decide))

/-- R19: a bit counted while lock is held. -/
theorem State.StreamsLegal.counted_holding (h : s.StreamsLegal) (hlock : (s.syn.get i).holdsLock = true)
    (hk : (s.syn.get i).selected = some k) (hp : s.profile k = some p) (hleft : 1 < (s.syn.get i).bitsToSync) :
    State.Holding s (s.counted i bit) i k p ((s.syn.get i).bitsToSync - 1) (s.trk.get i).wordPos := by
  have hon : (s.syn.get i).mode ≠ .off := by
    rcases (s.syn.get i).holdsLock_iff.1 hlock with hm | hm <;> rw [hm] <;> decide
  have hrecord := (h.streams i).records.record hon bit s.timebase
  have hheld : RecordsHeld s.profile ((s.counted i bit).syn.get i) (s.trk.get i) k p := by
    rw [State.counted, State.setSyn_get]
    exact (hrecord.held hlock hk hp).counted hleft
  have hactive : (s.stage.get i).pending = true → activeOf ((s.counted i bit).syn.get i) (s.trk.get i) := fun hpending =>
    hheld.activeOf_of_major ((s.extractionActive_iff i).1 ((h.streams i).pending hpending)).2
  exact
    { same := (streamChanges_sameElse i s).syn _ _ (.refl i s)
      held := hheld
      pending := hactive
      staged := (h.streams i).staged
      left := by rw [State.counted, State.setSyn_get]
      pos := rfl }

/-- R19: a bit counted in VERIFY. -/
theorem State.StreamsLegal.counted_verify (h : s.StreamsLegal) (hmode : (s.syn.get i).mode = .verify)
    (hk : (s.syn.get i).selected = some k) (hp : s.profile k = some p) (hleft : 1 < (s.syn.get i).bitsToSync) :
    (s.counted i bit).StreamsLegal := by
  have hrecords := (h.streams i).records
  have hfollows : (s.syn.get i).follows = true := (s.syn.get i).follows_iff.2 (.inl hmode)
  have hrecord := (hrecords.record (by rw [hmode]; decide) bit s.timebase).syn
  obtain ⟨hfollowing, -⟩ := hrecords.following_of hfollows hk hp
  refine h.setSyn (RecordsLegal.verifying ?_ hrecords.trk hrecords.armed hmode hk hp ?_ (hrecords.noLock ?_)) ?_
  · exact ⟨fun hno => absurd hfollows (Bool.eq_false_iff.1 hno), hrecord.misses, hrecord.windowTimer, hrecord.off,
      hrecord.stopped, hrecord.flowing, hrecord.idleTimeout, hrecord.window, hrecord.fill⟩
  · exact ⟨hfollowing.inArmedSet, ⟨Nat.le_sub_one_of_lt hleft, (Nat.sub_le _ _).trans hfollowing.bitsToSync.2⟩,
      hfollowing.verify, hfollowing.verifyCount, hfollowing.coast⟩
  · exact Syn.holdsLock_eq_false (by rw [hmode]; decide) (by rw [hmode]; decide)
  · exact not_activeOf (by rw [hmode]; decide) (by rw [hmode]; decide)

/-- R45: a bit handed to the tracker; the bits to the next position stay those of the rest of the frame. -/
theorem State.StreamsLegal.counted_trackerBit (h : s.StreamsLegal) (hlock : (s.syn.get i).holdsLock = true)
    (hk : (s.syn.get i).selected = some k) (hp : s.profile k = some p) (hleft : 1 < (s.syn.get i).bitsToSync)
    (hbefore : p.syncLength < (s.syn.get i).bitsToSync) (b : Bool) :
    ((s.counted i bit).trackerBit i b).StreamsLegal := by
  have hcounted := h.counted_holding (bit := bit) hlock hk hp hleft
  have hplace := ((h.streams i).records.following_of (Syn.follows_of_holdsLock hlock) hk hp).2 hlock
  have hlegal := hcounted.held.trk
  have htrk : (s.counted i bit).trk.get i = s.trk.get i := rfl
  obtain ⟨hlow, hhigh, hbits, hsum⟩ := hplace.word hbefore
  have hrest : p.frameWords - (s.trk.get i).wordPos + 1 = (p.frameWords - (s.trk.get i).wordPos).succ := rfl
  rw [hrest, Nat.succ_mul] at hsum
  have htaken := hcounted.setTrk (t := ((s.counted i bit).trk.get i).takeBit p b) (pos' := (s.trk.get i).wordPos)
    ⟨hlegal.extracting, hlegal.lists, hlegal.mismatch, hlegal.predicted⟩
    ⟨hplace.major, hplace.profile, hplace.oneMinor, hplace.previousId, hplace.frameId⟩ id rfl
  rw [State.trackerBit_eq (s := s.counted i bit) hplace.profile hp]
  rw [htrk] at htaken ⊢
  split
  · rename_i hmore
    refine htaken.streamsLegal h (fun _ => ⟨hlow, hhigh, ?_, ?_⟩) fun hle => by omega
    · rw [State.setTrk_trk, PerStream.get_set]
      exact hmore
    · rw [State.setTrk_trk, PerStream.get_set, hrest, Nat.succ_mul]
      show (s.syn.get i).bitsToSync - 1 + ((s.trk.get i).wordBits + 1) = _
      omega
  · exact htaken.wordComplete h (h.profiles k p hp) ⟨hlow, hhigh⟩ (by omega)

/-- R19, R45: a bit before the expected position. -/
theorem State.StreamsLegal.counts (h : s.StreamsLegal) (hfollows : (s.syn.get i).follows = true)
    (hk : (s.syn.get i).selected = some k) (hp : s.profile k = some p) (hleft : 1 < (s.syn.get i).bitsToSync) :
    (if (s.syn.get i).holdsLock = true ∧ p.syncLength < (s.syn.get i).bitsToSync then
        (s.counted i bit).trackerBit i ((s.syn.get i).polarity.correct bit)
      else s.counted i bit).StreamsLegal := by
  by_cases hlock : (s.syn.get i).holdsLock = true
  · by_cases hbefore : p.syncLength < (s.syn.get i).bitsToSync
    · rw [if_pos ⟨hlock, hbefore⟩]
      exact h.counted_trackerBit hlock hk hp hleft hbefore _
    · rw [if_neg fun hc => hbefore hc.2]
      have hplace := ((h.streams i).records.following_of hfollows hk hp).2 hlock
      refine (h.counted_holding hlock hk hp hleft).streamsLegal h (fun hlt => by omega) fun _ => ?_
      exact hplace.syncBits (Nat.le_of_not_lt hbefore)
  · have hmode : (s.syn.get i).mode = .verify := ((s.syn.get i).follows_iff.1 hfollows).resolve_right fun hm =>
      hlock ((s.syn.get i).holdsLock_iff.2 hm)
    rw [if_neg fun hc => hlock hc.1]
    exact h.counted_verify hmode hk hp hleft

theorem State.StreamsLegal.bitArrival (h : s.StreamsLegal) (i : StreamId) (bit : Bool) : (s.bitArrival i bit).StreamsLegal := by
  by_cases hfollows : (s.syn.get i).follows = true
  · obtain ⟨k, p, hk, hp, hfollowing, -⟩ := (h.streams i).following hfollows
    have hmode := (s.syn.get i).follows_iff.1 hfollows
    rcases Nat.lt_or_ge 1 (s.syn.get i).bitsToSync with hleft | hleft
    · rw [State.bitArrival_follow hmode hk hp, State.followBit_counts hleft]
      exact h.counts hfollows hk hp hleft
    · have hone : (s.syn.get i).bitsToSync = 1 := Nat.le_antisymm hleft hfollowing.bitsToSync.1
      rw [State.bitArrival_position hmode hk hp hone]
      rcases hmode with hm | hm | hm <;> rw [hm]
      · exact h.verifyPosition hm hk hp
      · exact h.lockedPosition hm hk hp
      · exact h.coastPosition hm hk hp
  · cases hm : (s.syn.get i).mode with
    | off => rwa [State.bitArrival_off hm]
    | stopped =>
      rw [State.bitArrival_stopped hm]
      exact h.recorded (by rw [hm]; decide)
    | hunt =>
      rw [State.bitArrival_hunt hm]
      refine (h.recorded (by rw [hm]; decide)).search ?_
      rw [State.setSyn_get]
      exact hm
    | verify => exact absurd ((s.syn.get i).follows_iff.2 (.inl hm)) hfollows
    | locked => exact absurd ((s.syn.get i).follows_iff.2 (.inr (.inl hm))) hfollows
    | coast => exact absurd ((s.syn.get i).follows_iff.2 (.inr (.inr hm))) hfollows

end

/-! ### The timers and the resets (R28, R29, R32, R42) -/

theorem timerDue_runs {now : Time} {timer : Option Time} {ms : Nat} (h : timerDue now timer ms = true) : timer ≠ none := by
  rintro rfl
  cases h

theorem State.StreamsLegal.idleExpiry {s : State} (h : s.StreamsLegal) (i : StreamId) : (s.idleExpiry i).StreamsLegal := by
  unfold State.idleExpiry
  split
  · have hidled := (h.streams i).records.idled
    generalize hz : ({ s.syn.get i with bitsFlowing := false, idleTimer := none } : Syn) = z at hidled ⊢
    have hmode : z.mode = (s.syn.get i).mode := by rw [← hz]
    have hactive : activeOf (s.syn.get i) (s.trk.get i) → activeOf z (s.trk.get i) := by rw [← hz]; exact id
    by_cases hverify : z.mode = .verify
    · rw [State.idleEffect_verify (by rw [State.setSyn_get]; exact hverify), State.setSyn_get, State.setSyn_setSyn]
      refine h.setSyn (hidled.verifyFailed hverify) (not_activeOf ?_ ?_) <;> rw [← hmode, hverify] <;> decide
    · by_cases hlock : z.mode = .locked ∨ z.mode = .coast
      · rw [State.idleEffect_lock (by rw [State.setSyn_get]; exact hlock)]
        exact h.loseLock hidled (by rcases hlock with hm | hm <;> rw [hm] <;> decide) rfl .idle
      · rw [not_or] at hlock
        rw [State.idleEffect_none (by rw [State.setSyn_get]; exact hverify) (by rw [State.setSyn_get]; exact hlock.1)
          (by rw [State.setSyn_get]; exact hlock.2)]
        exact h.setSyn hidled hactive
  · exact h

theorem State.StreamsLegal.windowExpiry {s : State} (h : s.StreamsLegal) (i : StreamId) :
    (s.windowExpiry i).StreamsLegal := by
  cases hdue : timerDue s.timebase (s.syn.get i).windowTimer (s.syn.get i).window with
  | false =>
    unfold State.windowExpiry
    rw [if_neg (Bool.eq_false_iff.1 hdue)]
    exact h
  | true =>
    have hrun := timerDue_runs hdue
    have hmode := ((h.streams i).syn.windowTimer hrun).1
    have hquiet {Q : Prop} : activeOf (s.syn.get i) (s.trk.get i) → Q := by
      rcases hmode with hm | hm <;> exact not_activeOf (by rw [hm]; decide) (by rw [hm]; decide)
    have hset {y : Syn} (hy : RecordsLegal s.profile y (s.trk.get i)) (rs : List Raise) :
        (State.raiseAll { s with syn := s.syn.set i y } rs).StreamsLegal := (h.setSyn hy hquiet).raiseAll rs
    cases hphase : (s.syn.get i).phase with
    | strict =>
      rw [State.windowExpiry_strict hdue hphase, State.raiseSync_setSyn]
      exact hset ((h.streams i).records.relax hrun s.timebase _) _
    | relaxed =>
      rw [State.windowExpiry_relaxed hdue hphase, State.raiseSync_setSyn]
      exact hset ((h.streams i).records.giveUp hrun hphase _) _

theorem State.disarm_mode (s : State) (i : StreamId) (why : SyncReason) : ((s.disarm i why).syn.get i).mode = .off := by
  rw [State.disarm_eq, State.extractionStop_syn, State.raiseAll_syn]
  show ((s.syn.set i _).get i).mode = _
  rw [PerStream.get_set]
  rfl

theorem State.StreamsLegal.resetStream {s : State} (h : s.StreamsLegal) (i : StreamId) : (s.resetStream i).StreamsLegal := by
  have hreset {u : State} (hu : u.StreamsLegal) (hoff : (u.syn.get i).mode = .off) :
      ((u.setSyn i (u.syn.get i).afterStreamsReset).setTrk i .reset).StreamsLegal := by
    refine hu.setRecords (rs := []) ((hu.streams i).records.afterStreamsReset hoff) ?_
    exact not_activeOf (by rw [hoff]; decide) (by rw [hoff]; decide)
  by_cases hoff : (s.syn.get i).mode = .off
  · have hstays : s.resetStream i = (s.setSyn i (s.syn.get i).afterStreamsReset).setTrk i .reset := by
      unfold State.resetStream
      simp only [if_pos hoff]
    rw [hstays]
    exact hreset h hoff
  · have hstops : s.resetStream i
        = ((s.disarm i .reset).setSyn i ((s.disarm i .reset).syn.get i).afterStreamsReset).setTrk i .reset := by
      unfold State.resetStream
      simp only [if_neg hoff]
    rw [hstops]
    exact hreset (h.disarm i .reset) (s.disarm_mode i .reset)

theorem State.reset_streamsLegal : State.reset.StreamsLegal where
  profiles k p hp := by
    have hnone : State.reset.profile k = none := by
      rw [State.profile_eq]
      exact Vector.getElem_replicate ..
    rw [hnone] at hp
    cases hp
  streams i := by
    have hlegal : Syn.reset.Legal :=
      ⟨fun _ => ⟨rfl, rfl, rfl, rfl⟩, fun _ => rfl, fun hrun => absurd rfl hrun, fun _ => ⟨rfl, rfl, rfl, rfl⟩,
        fun hstopped => (by cases hstopped), fun hflowing => (by cases hflowing), by decide, by decide, by decide⟩
    have hsyn : State.reset.syn.get i = .reset := by cases i <;> rfl
    have htrk : State.reset.trk.get i = .reset := by cases i <;> rfl
    have hstage : State.reset.stage.get i = .reset := by cases i <;> rfl
    refine RecordsLegal.streamLegal ?_ ?_ ?_
    · rw [hsyn, htrk]
      exact RecordsLegal.quiet hlegal Tracker.reset_legal (fun hon => absurd rfl hon) rfl Tracker.reset_idle
    · rw [hstage]
      exact fun hp => by cases hp
    · rw [hstage]
      exact Nat.zero_le _

/-! ### Every step -/

theorem execKeeps_streamsLegal : ExecKeeps State.StreamsLegal :=
  { requestKeeps_streamsLegal with
    time := fun _ _ h => h.congr rfl rfl rfl rfl
    bitArrival := fun _ i b h => h.bitArrival i b
    idleExpiry := fun _ i h => h.idleExpiry i
    windowExpiry := fun _ i h => h.windowExpiry i
    resetStreams := fun _ h => ((h.resetStream .s0).resetStream .s1).sendInside
    powerOn := fun _ _ _ => State.reset_streamsLegal.congr rfl rfl rfl rfl
    fullReset := fun _ _ _ => State.reset_streamsLegal.congr rfl rfl rfl rfl
    staleExpiry := fun _ c h => tableChanges_streamsLegal.staleExpiry h c
    noticeSend := fun s h => by
      rcases s.noticeSend_cases with ⟨-, e⟩ | ⟨_, _, -, -, e⟩ <;> rw [e]
      · exact h
      · exact h.congr rfl rfl rfl rfl }

/-- Settles O32: inside a frame the bits to come and the word's place determine one another, and every request that reaches a
stream's records has checked what the record asks for. -/
theorem streamsKept : Obligations.StreamsKept := fun _ _ =>
  execKeeps_streamsLegal.step fun _ _ h => h.congr rfl rfl rfl rfl

/-- Settles O15: each block's reset record meets its invariant. -/
theorem invariantsAtReset : Obligations.InvariantsAtReset :=
  ⟨State.reset_linkLegal, NoticeUnit.Legal.reset, State.reset_channelsLegal, State.reset_rostersLegal,
    State.reset_streamsLegal, State.reset_mapLegal⟩

end Sys2Proof.Machine
end

section
/-! The machine and the executor (10): which steps there are (O1, O2), the resets (O3, O4), and when a request is taken
(O12, O13). -/

namespace Sys2Proof.Machine

/-! ### Every command answers (R189 and the queue of commands) -/

/-- Settles O1: both clauses are the two cases of the step. -/
theorem stepRunsTheFrontCommand : Obligations.StepRunsTheFrontCommand := by
  refine ⟨fun c rest s => rfl, fun s hidle => ?_⟩
  rw [step, hidle]

/-- The queue of waiting commands is touched by the step alone. -/
theorem partChanges_pending (waiting : List Instr) : PartChanges fun s => s.pending = waiting where
  draws _ _ h := h
  raise _ _ h := by simpa using h
  load _ _ _ h _ _ := h
  drop _ _ h _ := h
  stage _ _ _ h _ _ _ := h
  discard _ _ h := h
  accept _ _ h _ _ := h
  commit _ _ h _ := h
  bind _ _ _ h _ _ _ := h
  unbind _ _ _ h _ _ _ := h
  channel _ _ _ _ h _ _ _ := h
  channels s f h _ _ := (State.mapChannels_pending s f).trans h
  rosterList _ _ _ h _ _ := h
  rosterStart _ _ _ _ h _ _ := h
  rosterStop _ _ h := h
  mask _ _ h := h
  grant _ _ h := h
  link _ _ _ _ _ _ _ h := h
  time _ _ h := h
  syn _ _ _ h := h
  trk _ _ _ h := h
  boundary _ _ _ h := by simpa [State.rosterBoundary] using h
  powerOn _ _ h := h
  fullReset _ _ h := h
  noticeSend s h := by
    rcases s.noticeSend_cases with ⟨-, e⟩ | ⟨_, _, -, -, e⟩ <;> rw [e] <;> exact h

/-- No row but the stale timer's can fault, and no row refuses. -/
theorem exec_answers {c : Instr} (h : ∀ n, c = .staleTimerExpiry n → n < 128) (s : State) : ∃ t, exec c s = .next t := by
  cases c
  case staleTimerExpiry n =>
    exact ⟨s.staleExpiry (Fin.ofNat 128 n), if_pos (h n rfl)⟩
  all_goals exact ⟨_, rfl⟩

/-- Settles O2: the rows answer next states, and no change of any of them touches the queue of commands. -/
theorem commandsComplete : Obligations.CommandsComplete := by
  refine fun c s => ⟨fun hc => ?_, fun n hn hout => ?_⟩
  · obtain ⟨t, ht⟩ := exec_answers hc s
    exact ⟨t, ht, (partChanges_pending s.pending).execKeeps.exec rfl ht⟩
  · subst hn
    exact if_neg (Nat.not_lt.2 hout)

/-! ### The resets (R197, R200) -/

theorem Syn.reset_atPowerOn : Syn.reset.AtPowerOn :=
  ⟨rfl, rfl, rfl, rfl, rfl, ⟨rfl, rfl, rfl⟩, rfl, ⟨rfl, rfl⟩, ⟨rfl, rfl⟩, rfl, rfl, ⟨rfl, rfl, rfl, rfl⟩, rfl⟩

theorem Tracker.reset_atPowerOn : Tracker.reset.AtPowerOn :=
  ⟨rfl, rfl, rfl, ⟨rfl, rfl, rfl⟩, rfl, rfl, ⟨rfl, rfl⟩, rfl, rfl, rfl⟩

theorem State.reset_atPowerOn : State.reset.AtPowerOn where
  timebase := rfl
  receiver := ⟨rfl, rfl, rfl⟩
  queues := ⟨rfl, rfl, rfl⟩
  profiles k := by
    rw [State.profile_eq]
    exact Vector.getElem_replicate ..
  syn i := by cases i <;> exact Syn.reset_atPowerOn
  trk i := by cases i <;> exact Tracker.reset_atPowerOn
  map := ⟨rfl, fun i => by cases i <;> exact ⟨rfl, rfl⟩⟩
  channels c := by
    rw [State.channel_eq]
    exact Vector.getElem_replicate ..
  pool := rfl
  rosters r := by
    rw [State.roster_eq]
    exact Vector.getElem_replicate ..
  notices := rfl

/-- Being at power-on does not read the link rate, the transmitter, the READY, the queue of commands or the free values. -/
theorem State.AtPowerOn.congr {s t : State} (h : s.AtPowerOn) (ht : t = { s with
    linkRate := t.linkRate, tx := t.tx, ready := t.ready, draws := t.draws, pending := t.pending }) : t.AtPowerOn := by
  rw [ht]
  exact ⟨h.timebase, h.receiver, h.queues, h.profiles, h.syn, h.trk, h.map, h.channels, h.pool, h.rosters, h.notices⟩

/-- Settles O3: the reset state is at power-on, and a power-on reset sets the link rate beside it. -/
theorem powerOn : Obligations.PowerOn := by
  refine ⟨State.reset_atPowerOn, rfl, rfl, rfl, fun a b s => ⟨s.powerOn ⟨a, b⟩, rfl, ?_, rfl, rfl, rfl, ?_⟩⟩
  · exact State.reset_atPowerOn.congr rfl
  · cases a <;> cases b <;> rfl

theorem resetRefusal_full (tag : Byte) : resetRefusal ⟨0x03, tag, [0]⟩ = none := rfl

theorem resetRefusal_scope {tag scope : Byte} (h : 2 < scope.toNat) :
    resetRefusal ⟨0x03, tag, [scope]⟩ = some (.badValue 0) := by
  have hlength : lengthAllowed 0x03 [scope].length = true := rfl
  rw [resetRefusal, hlength, if_pos rfl, fieldAt_cons_zero, if_pos h]

theorem resetRefusal_length {tag : Byte} {payload : List Byte} (h : payload.length ≠ 1) :
    resetRefusal ⟨0x03, tag, payload⟩ = some (badLength ⟨0x03, tag, payload⟩) := by
  refine resetRefusal_badLength ?_
  refine (lengthAllowed_eq_false_iff (row := (kindReset, 1, 1)) (by decide) _).2 ?_
  dsimp only
  omega

/-- R199: a RESET that is refused is answered with its refusal, whichever of the three rows takes it. -/
theorem exec_reset_refused {c : Instr} (hc : c ∈ [Instr.resetFull, .resetStreams, .resetChannels]) {s : State} {tag : Byte}
    {payload : List Byte} {rest : List Request} (h : s.fresh ⟨0x03, tag, payload⟩ rest) {r : Reply}
    (hr : resetRefusal ⟨0x03, tag, payload⟩ = some r) :
    exec c s = .next (s.answered ⟨0x03, tag, payload⟩ rest r.status r.payload) := by
  have hsome : (resetRefusal ⟨0x03, tag, payload⟩).isSome = true := by rw [hr]; rfl
  have htaken (scope : Nat) : takesReset scope ⟨0x03, tag, payload⟩ = true := by
    rw [takesReset, hsome, Bool.true_or, Bool.and_true]
    rfl
  have hact : actAny ⟨0x03, tag, payload⟩ { s with inbound := rest }
      = s.answered ⟨0x03, tag, payload⟩ rest r.status r.payload := by
    unfold actAny
    rw [if_pos (show (0x03 : Byte) = kindReset from rfl), actResetChannels, hr]
    rfl
  rw [← hact]
  simp only [List.mem_cons, List.not_mem_nil, or_false] at hc
  rcases hc with rfl | rfl | rfl
  · exact exec_takesFresh h rfl (htaken 0) fun _ => hsome
  · exact exec_takesFresh h rfl (htaken 1) fun _ => hsome
  · exact exec_takesFresh h rfl (htaken 2) fun _ => hsome

/-- Settles O4: the FULL reset is the reset state but for what stays, and the refused RESETs go the way of every refusal. -/
theorem fullReset : Obligations.FullReset := by
  refine ⟨fun s tag rest hfresh => ?_, fun c hc s tag rest => ⟨fun scope hscope hfresh => ?_, fun payload hlength hfresh => ?_⟩⟩
  · have hexec : exec .resetFull s = .next (({ s with inbound := rest } : State).fullReset tag) :=
      congrArg Host.Outcome.next (State.takeRequest_fresh hfresh rfl actResetFull)
    exact ⟨_, hexec, State.reset_atPowerOn.congr rfl, rfl, rfl, rfl, rfl⟩
  · exact exec_reset_refused hc hfresh (resetRefusal_scope hscope)
  · exact exec_reset_refused hc hfresh (resetRefusal_length hlength)

/-! ### When a request is taken (R189, R190, R194) -/

/-- Settles O12: the three cases are those in which the executor does not take a request, and the rows cover every kind. -/
theorem executorWaits : Obligations.ExecutorWaits := by
  refine ⟨fun c s hc hwaits => ?_, exists_row⟩
  obtain ⟨act, hact⟩ := exec_eq_takeRequest hc s
  rw [hact]
  rcases hwaits with hempty | hfull | ⟨q, rest, hhead, hother⟩
  · rw [State.takeRequest_empty hempty]
  · rw [State.takeRequest_full hfull]
  · rw [State.takeRequest_unwanted hhead hother]

/-- R190: with distinct tags the entry found is the only one with the request's tag. -/
theorem State.cached_eq_some {s : State} {q : Request} {e : CacheEntry}
    (hdistinct : s.cache.Pairwise fun a b => a.tag ≠ b.tag) (he : e ∈ s.cache) (htag : e.tag = q.tag)
    (hkind : e.kind = q.kind) : s.cached q = some e := by
  refine List.find?_eq_some_of_least hdistinct he (by simp [htag, hkind]) fun x hx hne => ?_
  rw [htag] at hne
  simp [hne]

/-- R194: what a reply placed in the cache pushes out. -/
theorem placeInCache_kept {cache : List CacheEntry} (hslots : cache.length ≤ 4) (e : CacheEntry) :
    ∃ kept, placeInCache cache e = kept ++ [e] ∧ kept.Sublist cache ∧ kept.length ≤ 3 ∧ (∀ x ∈ kept, x.tag ≠ e.tag)
      ∧ ∀ x ∈ cache, x.tag ≠ e.tag → x ∉ kept →
        cache.length = 4 ∧ cache.head? = some x ∧ ∀ y ∈ cache, y.tag ≠ e.tag := by
  unfold placeInCache
  split
  · rename_i hheld
    obtain ⟨y, hy, hye⟩ := List.any_eq_true.1 hheld
    have hshorter : (cache.filter fun x => x.tag != e.tag).length < cache.length :=
      List.length_filter_lt_length_iff_exists.2 ⟨y, hy, by simpa using hye⟩
    refine ⟨_, rfl, List.filter_sublist, by omega, fun x hx => ?_, fun x hx hne hgone => ?_⟩
    · simpa using (List.mem_filter.1 hx).2
    · exact absurd (List.mem_filter.2 ⟨hx, by simpa using hne⟩) hgone
  · rename_i hnone
    have hother : ∀ x ∈ cache, x.tag ≠ e.tag := by simpa using hnone
    split
    · rename_i hroom
      exact ⟨cache, rfl, List.Sublist.refl _, Nat.le_of_lt_succ hroom, hother, fun x hx _ hgone => absurd hx hgone⟩
    · rename_i hfull
      have hfour : cache.length = 4 := Nat.le_antisymm hslots (Nat.le_of_not_lt hfull)
      obtain ⟨oldest, kept, hcache⟩ := List.exists_cons_of_length_eq_add_one hfour
      subst hcache
      refine ⟨kept, rfl, List.sublist_cons_self _ _, Nat.le_of_eq (Nat.succ.inj hfour),
        fun x hx => hother x (List.mem_cons_of_mem _ hx), fun x hx _ hgone => ⟨hfour, ?_, hother⟩⟩
      rcases List.mem_cons.1 hx with rfl | hx
      · rfl
      · exact absurd hx hgone

/-- Settles O13: a duplicate is found by its tag and kind, and a place in the cache comes from the same tag, a free slot or the
oldest entry. -/
theorem duplicatesAnswered : Obligations.DuplicatesAnswered := by
  refine ⟨fun c s q rest e hc htaken hhead he htag hkind hlink => ?_, fun cache e hslots _ => placeInCache_kept hslots e⟩
  obtain ⟨act, hact⟩ := exec_eq_takeRequest hc s
  rw [hact, State.takeRequest_duplicate hhead (State.cached_eq_some hlink.cacheTags he htag hkind) htaken]

end Sys2Proof.Machine
end

section
/-! Profile slots (01): R13 and R14, PROFILE_DROP and PROFILE_READ (O18); R203, the stored profile's layout (O20). -/

namespace Sys2Proof.Machine

/-! ### PROFILE_DROP and PROFILE_READ (R13, R14) -/

theorem Slot.ofNat_eq {n : Nat} {k : Slot} (h : n = k.val) : Fin.ofNat 4 n = k := by
  rw [h, Fin.ofNat_val_eq_self]

theorem Slot.not_3_lt {n : Nat} {k : Slot} (h : n = k.val) : ¬ 3 < n := by
  have hk := k.isLt
  omega

/-- R13: what a PROFILE_DROP does with the slot it names. -/
def State.dropSlot (s : State) (k : Slot) : Reply × State :=
  if s.slotInUse k then (.plain .inUse, s) else (.ok [], s.setProfile k none)

theorem exec_profileDrop {s : State} {rest : List Request} {tag slot : Byte} {q : Request} (hq : q = ⟨0x09, tag, [slot]⟩)
    (h : s.fresh q rest) :
    exec .profileDrop s = .next (
      if 3 < slot.toNat then s.answered q rest .badValue [0]
      else q.doneBy (State.dropSlot { s with inbound := rest } (Fin.ofNat 4 slot.toNat))) := by
  have hasks : s.asks q rest kindProfileDrop := by
    subst hq
    exact ⟨h, rfl, rfl⟩
  exact exec_asks_number (work := fun n t => t.dropSlot (Fin.ofNat 4 n)) rfl (congrArg Request.payload hq) hasks

theorem exec_profileRead {s : State} {rest : List Request} {tag slot : Byte} {q : Request} (hq : q = ⟨0x0A, tag, [slot]⟩)
    (h : s.fresh q rest) :
    exec .profileRead s = .next (
      if 3 < slot.toNat then s.answered q rest .badValue [0]
      else s.answered q rest .ok (s.profileReport (Fin.ofNat 4 slot.toNat))) := by
  have hasks : s.asks q rest kindProfileRead := by
    subst hq
    exact ⟨h, rfl, rfl⟩
  exact exec_asks_number (work := fun n t => (.ok (t.profileReport (Fin.ofNat 4 n)), t)) rfl (congrArg Request.payload hq) hasks

theorem Request.doneBy_dropSlot (s : State) (q : Request) (rest : List Request) (k : Slot) :
    q.doneBy (State.dropSlot { s with inbound := rest } k)
      = if s.slotInUse k then s.answered q rest .inUse [] else (s.setProfile k none).answered q rest .ok [] := by
  rw [State.dropSlot, apply_ite q.doneBy]
  rfl

/-- R14: the report of a slot, an EMPTY one's fields all 0. -/
theorem State.profileReport_eq (s : State) (k : Slot) :
    s.profileReport k = (match s.profile k with
        | some p => 1 :: p.bytes
        | none => List.replicate 28 0)
      ++ [BitVec.ofNat 8 ((s.armedBy k .s0).toNat + 2 * (s.armedBy k .s1).toNat + 4 * (s.mappedSlot k).toNat)] := by
  unfold State.profileReport
  cases s.profile k with
  | none => rfl
  | some p => rfl

/-- Settles O18: both requests check the slot number, the drop then the use of the slot. -/
theorem profileDropAndRead : Obligations.ProfileDropAndRead := by
  refine fun s tag slot rest => ⟨fun hfresh => ⟨fun hbad => ?_, fun k hk => ?_⟩,
    fun hfresh => ⟨fun hbad => ?_, fun k hk => ?_⟩⟩
  · rw [exec_profileDrop rfl hfresh, if_pos hbad]
  · rw [exec_profileDrop rfl hfresh, if_neg (Slot.not_3_lt hk), Slot.ofNat_eq hk, Request.doneBy_dropSlot]
    rfl
  · rw [exec_profileRead rfl hfresh, if_pos hbad]
  · rewrite [exec_profileRead rfl hfresh, if_neg (Slot.not_3_lt hk), Slot.ofNat_eq hk, State.profileReport_eq]
    rfl

/-! ### The stored profile's layout (R203) -/

/-- R203: the profile that fields in range make lays out the fields again, the ID fields of a major frame of one as 0. -/
theorem LoadFields.profile_bytes {f : LoadFields} (hpattern : f.pattern < 2 ^ 64) (hdirection : f.idDirection ≤ 1)
    (hparity : f.parity ≤ 2) (hcheck : f.check ≤ 1) (hinverted : f.inverted ≤ 1) :
    byte f.slot ++ f.profile.bytes = { f with
      idPosition := if f.majorLength = 1 then 0 else f.idPosition
      idWidth := if f.majorLength = 1 then 0 else f.idWidth }.bytes := by
  have hsync : (BitVec.ofNat 64 f.pattern).toNat = f.pattern := by
    rw [BitVec.toNat_ofNat, Nat.mod_eq_of_lt hpattern]
  have hposition : (if f.majorLength = 1 then none else some f.idPosition).getD 0
      = if f.majorLength = 1 then 0 else f.idPosition := by split <;> rfl
  have hwidth : (if f.majorLength = 1 then none else some f.idWidth).getD 0
      = if f.majorLength = 1 then 0 else f.idWidth := by split <;> rfl
  have hdirection : (if f.idDirection = 0 then IdDirection.up else .down).code = f.idDirection := by
    interval_cases f.idDirection <;> rfl
  have hparity : (if f.parity = 0 then ParityKind.noParity else if f.parity = 1 then .odd else .even).code = f.parity := by
    interval_cases f.parity <;> rfl
  have hcheck : (if f.check = 0 then CheckKind.noCheck else .crc16).code = f.check := by
    interval_cases f.check <;> rfl
  have hinverted : yesNo (f.inverted == 1) = byte f.inverted := by
    interval_cases f.inverted <;> rfl
  simp only [Profile.bytes, LoadFields.profile, LoadFields.bytes, hsync, hposition, hwidth, hdirection, hparity, hcheck,
    hinverted, List.append_assoc]

/-- Settles O20: the payload reads back field by field, and fields that break no check are stored as they came. -/
theorem profileReadsBack : Obligations.ProfileReadsBack := by
  refine fun f hfits => ⟨f.bytes_length, readLoad_bytes hfits, fun hbreaks => ?_⟩
  obtain ⟨-, -, -, hpattern, -⟩ := hfits
  have hdirection : f.idDirection ≤ 1 := not_not.1 (hbreaks 9)
  have hparity : f.parity ≤ 2 := not_not.1 fun h => hbreaks 10 (.inl h)
  have hcheck : f.check ≤ 1 := not_not.1 fun h => hbreaks 11 (.inl h)
  have hinverted : f.inverted ≤ 1 := not_not.1 (hbreaks 17)
  exact LoadFields.profile_bytes hpattern hdirection hparity hcheck hinverted

end Sys2Proof.Machine
end

section
/-! Rosters (08): R154 and R155, ROSTER_SET (O54); R159 to R161, a major boundary at the rosters (O56). -/

namespace Sys2Proof.Machine

/-! ### ROSTER_SET (R154, R155) -/

/-- R154: distinct channel numbers of the table, none of them seen before, only join the numbers seen. -/
theorem rosterListFailing_append {before : List Nat} (hnodup : before.Nodup) (l : List Nat) :
    ∀ {index : Nat} {seen : List Nat}, (∀ b ∈ before, b ≤ 127 ∧ b ∉ seen) →
      rosterListFailing index seen (before ++ l) = rosterListFailing (index + before.length) (before.reverse ++ seen) l := by
  induction before with
  | nil => exact fun _ => rfl
  | cons b before ih =>
    intro index seen hgood
    obtain ⟨hnotin, hnodup⟩ := List.nodup_cons.1 hnodup
    obtain ⟨hrange, hunseen⟩ := hgood b List.mem_cons_self
    have hpass : ¬ (127 < b ∨ b ∈ seen) := not_or.2 ⟨Nat.not_lt.2 hrange, hunseen⟩
    have hrest : ∀ x ∈ before, x ≤ 127 ∧ x ∉ b :: seen := fun x hx =>
      ⟨(hgood x (List.mem_cons_of_mem _ hx)).1, fun hin => (List.mem_cons.1 hin).elim (fun e => hnotin (e ▸ hx))
        (hgood x (List.mem_cons_of_mem _ hx)).2⟩
    rw [List.cons_append, rosterListFailing, if_neg hpass, ih hnodup hrest, List.length_cons, List.reverse_cons,
      List.append_assoc, List.singleton_append, Nat.add_right_comm, Nat.add_assoc]

theorem rosterSetFailing_list {roster : Byte} (h : ¬ 3 < roster.toNat) (list : List Byte) :
    rosterSetFailing (roster :: list) = rosterListFailing 1 [] (list.map BitVec.toNat) := by
  rw [rosterSetFailing, fieldAt_cons_zero, if_neg h, List.tail_cons]

theorem nodup_map_toNat {l : List Byte} (h : l.Nodup) : (l.map BitVec.toNat).Nodup :=
  h.map fun _ _ => BitVec.eq_of_toNat_eq

/-- R154: the first channel number that is above 127 or in the list before it fails, at its index. -/
theorem rosterSetFailing_at {roster : Byte} (h : ¬ 3 < roster.toNat) {before after : List Byte} {c : Byte}
    (hnodup : before.Nodup) (hrange : ∀ b ∈ before, b.toNat ≤ 127) (hbad : 127 < c.toNat ∨ c ∈ before) :
    rosterSetFailing (roster :: (before ++ c :: after)) = some (before.length + 1) := by
  have hgood : ∀ b ∈ before.map BitVec.toNat, b ≤ 127 ∧ b ∉ ([] : List Nat) := by
    simpa using hrange
  have hfails : 127 < c.toNat ∨ c.toNat ∈ (before.map BitVec.toNat).reverse ++ [] :=
    hbad.imp_right fun hin => by simpa using ⟨c, hin, rfl⟩
  rw [rosterSetFailing_list h, List.map_append, rosterListFailing_append (nodup_map_toNat hnodup) _ hgood, List.map_cons,
    rosterListFailing, if_pos hfails, List.length_map, Nat.add_comm]

theorem rosterSetFailing_none {roster : Byte} (h : ¬ 3 < roster.toNat) {list : List Byte} (hnodup : list.Nodup)
    (hrange : ∀ b ∈ list, b.toNat ≤ 127) : rosterSetFailing (roster :: list) = none := by
  have hgood : ∀ b ∈ list.map BitVec.toNat, b ≤ 127 ∧ b ∉ ([] : List Nat) := by
    simpa using hrange
  have happend := rosterListFailing_append (nodup_map_toNat hnodup) [] (index := 1) hgood
  rw [List.append_nil] at happend
  rw [rosterSetFailing_list h, happend, rosterListFailing]

theorem runRosterSet_eq (p : List Byte) (s : State) : runRosterSet p s = unlessFailing (rosterSetFailing p) s
    (.ok (byte p.tail.length), s.setRoster (Fin.ofNat 4 (fieldAt p 0 1))
      { s.roster (Fin.ofNat 4 (fieldAt p 0 1)) with list := p.tail.map fun b => Fin.ofNat 128 b.toNat }) := rfl

/-- A ROSTER_SET of up to 16 channels is done by its meaning. -/
theorem exec_rosterSet {s : State} {rest : List Request} {tag roster : Byte} {list : List Byte} (hlength : list.length ≤ 16)
    {q : Request} (hq : q = ⟨0x30, tag, roster :: list⟩) (h : s.fresh q rest) :
    exec .rosterSet s = .next (q.doneBy (runRosterSet (roster :: list) { s with inbound := rest })) := by
  have hallowed : lengthAllowed kindRosterSet (roster :: list).length = true := by
    rw [lengthAllowed_of_row (lo := 1) (hi := 17) (by decide), List.length_cons]
    exact decide_eq_true ⟨by omega, by omega⟩
  have hasks : s.asks q rest kindRosterSet := by
    subst hq
    exact ⟨h, rfl, hallowed⟩
  rw [exec_asks rfl hasks, hq]

theorem exec_rosterSet_refused {s : State} {rest : List Request} {tag roster : Byte} {list : List Byte}
    (hlength : list.length ≤ 16) {q : Request} (hq : q = ⟨0x30, tag, roster :: list⟩) (h : s.fresh q rest) {index : Nat}
    (hfails : rosterSetFailing (roster :: list) = some index) :
    exec .rosterSet s = .next (s.answered q rest .badValue [BitVec.ofNat 8 index]) := by
  rw [exec_rosterSet hlength hq h, runRosterSet_eq, hfails]
  rfl

theorem exec_rosterSet_stored {s : State} {rest : List Request} {tag roster : Byte} {list : List Byte}
    (hlength : list.length ≤ 16) {q : Request} (hq : q = ⟨0x30, tag, roster :: list⟩) (h : s.fresh q rest) {r : RosterId}
    (hr : roster.toNat = r.val) (hpasses : rosterSetFailing (roster :: list) = none) :
    exec .rosterSet s = .next (State.answered
      (s.setRoster r { s.roster r with list := list.map fun b => Fin.ofNat 128 b.toNat }) q rest .ok
      [BitVec.ofNat 8 list.length]) := by
  rewrite [exec_rosterSet hlength hq h, runRosterSet_eq, hpasses, fieldAt_cons_zero, RosterId.ofNat_eq hr]
  rfl

/-- A channel number laid out in a byte reads back. -/
theorem toNat_channelByte (c : ChannelId) : (BitVec.ofNat 8 c.val).toNat = c.val := by
  rw [BitVec.toNat_ofNat, Nat.mod_eq_of_lt (by omega)]

theorem channelBytes_injective : Function.Injective fun c : ChannelId => BitVec.ofNat 8 c.val := fun c d h => by
  have hval : (BitVec.ofNat 8 c.val).toNat = (BitVec.ofNat 8 d.val).toNat := congrArg BitVec.toNat h
  rw [toNat_channelByte, toNat_channelByte] at hval
  exact Fin.ext hval

theorem readChannels_channelBytes (channels : List ChannelId) :
    ((channels.map fun c => BitVec.ofNat 8 c.val).map fun b => Fin.ofNat 128 b.toNat) = channels := by
  rw [List.map_map]
  refine List.map_id'' (fun c => ?_) channels
  exact ChannelId.ofNat_eq (toNat_channelByte c)

/-- Settles O54: the list fails at its first bad entry, and a list of distinct channels replaces the roster's. -/
theorem rosterListSet : Obligations.RosterListSet := by
  refine fun s tag roster list rest hlength => ?_
  intro q hfresh
  refine ⟨fun hbad => ?_, fun r hr => ⟨fun before after c hlist hnodup hrange hc => ?_, fun channels hnodup hlist => ?_⟩⟩
  · refine exec_rosterSet_refused hlength rfl hfresh ?_
    rw [rosterSetFailing, fieldAt_cons_zero, if_pos hbad]
  · refine exec_rosterSet_refused hlength rfl hfresh ?_
    rw [hlist, rosterSetFailing_at (RosterId.not_3_lt hr) hnodup hrange hc]
  · have hdistinct : list.Nodup := by
      rw [hlist]
      exact hnodup.map channelBytes_injective
    have hrange : ∀ b ∈ list, b.toNat ≤ 127 := by
      rw [hlist]
      rintro b hb
      obtain ⟨c, -, rfl⟩ := List.mem_map.1 hb
      rw [toNat_channelByte]
      omega
    rewrite [exec_rosterSet_stored hlength rfl hfresh hr (rosterSetFailing_none (RosterId.not_3_lt hr) hdistinct hrange)]
    rewrite [show (list.map fun b => Fin.ofNat 128 b.toNat) = channels by rw [hlist, readChannels_channelBytes]]
    rfl

end Sys2Proof.Machine
end

section
/-! Rosters (08): R159 to R161, a major boundary (O56). Channels (05, 06): R108, a released sample (O47); R111, the stale timer
(O48); R119 to R130, settling (O50). -/

namespace Sys2Proof.Machine

/-! ### A major boundary at the rosters (R159 to R161) -/

theorem Roster.fires_iff (v : Roster) (i : StreamId) :
    v.fires i = true ↔ decide (v.mode = .periodic ∧ v.stream = i) = true ∧ v.countdown - 1 = 0 := by
  unfold Roster.fires Roster.counts
  rw [Bool.and_eq_true, decide_eq_true_iff (p := v.countdown - 1 = 0)]

/-- R159: the record after a boundary, as one test of whether the roster counts it. -/
theorem Roster.boundary_eq (v : Roster) (i : StreamId) :
    v.boundary i = if decide (v.mode = .periodic ∧ v.stream = i) then
      { v with countdown := if v.countdown - 1 = 0 then v.period else v.countdown - 1 } else v := by
  unfold Roster.boundary Roster.fires Roster.counts
  by_cases hcounts : v.mode = .periodic ∧ v.stream = i
  · by_cases hzero : v.countdown - 1 = 0
    · simp [hcounts, hzero]
    · simp [hcounts, hzero]
  · simp [hcounts]

/-- R160: a roster that fires is one of the boundary's stream. -/
theorem State.rosterRaise_of_fires {s : State} {r : RosterId} {i : StreamId} (h : (s.roster r).fires i = true)
    (count : BitVec 32) : s.rosterRaise r count = .roster r i count ((s.roster r).list.map s.rosterEntry) := by
  have hstream : (s.roster r).stream = i := (of_decide_eq_true (((s.roster r).fires_iff i).1 h).1).2
  rw [State.rosterRaise, hstream]
  rfl

/-- Settles O56: each record counts down or is reloaded, and those that fire raise. -/
theorem rosterBoundary : Obligations.RosterBoundary := by
  intro s i count counts
  have hrecords : s.rosters.map (fun v => v.boundary i) = Vector.ofFn fun r : RosterId =>
      if counts r then
        { s.roster r with
          countdown := if (s.roster r).countdown - 1 = 0 then (s.roster r).period else (s.roster r).countdown - 1 }
      else s.roster r := by
    refine Vector.ext fun n hn => ?_
    rw [Vector.getElem_map, Vector.getElem_ofFn, Roster.boundary_eq]
    rfl
  have hraises : (allRosters.flatMap fun r => if (s.roster r).fires i then [s.rosterRaise r count] else [])
      = ([0, 1, 2, 3] : List RosterId).flatMap fun r =>
        if counts r = true ∧ (s.roster r).countdown - 1 = 0 then
          [.roster r i count ((s.roster r).list.map s.rosterEntry)] else [] := by
    have hall : allRosters = [0, 1, 2, 3] := rfl
    rw [hall]
    refine congrArg (fun f => List.flatMap f ([0, 1, 2, 3] : List RosterId)) (funext fun r => ?_)
    by_cases hfires : (s.roster r).fires i = true
    · rw [if_pos hfires, if_pos (((s.roster r).fires_iff i).1 hfires), State.rosterRaise_of_fires hfires]
    · rw [if_neg hfires, if_neg fun h => hfires (((s.roster r).fires_iff i).2 h)]
  rw [State.rosterBoundary, hrecords, hraises]

/-! ### A released sample (R108) -/

theorem Quality.latches_eq (q : Quality) (latches : BitVec 7) :
    latches ||| q.latches = latches ||| 1 ||| (if q.parity then 2 else 0) ||| (if q.checkFail then 4 else 0)
      ||| (if q.coasted then 8 else 0) := by
  rw [Quality.latches]
  simp only [BitVec.or_assoc]
  rfl

theorem State.release_bound {s : State} {i : StreamId} {c : ChannelId} {ch : Channel} (hc : s.channel c = some ch)
    (hstream : ch.config.stream = i) (raw : Sample) :
    s.release i c raw
      = (s.setChannel c (some (ch.release s.timebase c raw).1)).raiseAll (ch.release s.timebase c raw).2 := by
  simp only [State.release, hc, if_pos hstream]

/-- Settles O47: the release is the record with the sample numbered and received, settled and pushed. -/
theorem sampleReleased : Obligations.SampleReleased := by
  intro s i c raw ch hc hstream r got settled pushed
  have hreceived : ch.receive (ch.numbered raw) = got :=
    congrArg (fun L => { ch with nextSeq := ch.nextSeq + 1, data := .current r, latches := L })
      (Quality.latches_eq raw.flags ch.latches)
  have hreleased : ch.release s.timebase c raw
      = ({ pushed with staleTimer := if ch.settings.staleWindow = 0 then none else some s.timebase },
        (got.settle c r).2 ++ (settled.push c r).2 ++ if ch.settings.noticeSet.getLsbD 0 then [.sample c r] else []) := by
    simp only [Channel.release]
    rw [hreceived]
    rfl
  rw [State.release_bound hc hstream, hreleased]
  rfl

/-! ### The stale timer (R111, R113) -/

theorem exec_staleTimerExpiry (c : ChannelId) (s : State) : exec (.staleTimerExpiry c.val) s = .next (s.staleExpiry c) := by
  refine (if_pos c.isLt).trans ?_
  rw [Fin.ofNat_val_eq_self]

/-- Settles O48: a due expiry is the entry to STALE, and any other leaves the part. -/
theorem staleExpires : Obligations.StaleExpires := by
  refine fun s c => ⟨fun ch r start hc hdata hrun hdue => ?_, fun hearly => ?_⟩
  · rw [exec_staleTimerExpiry]
    simp only [State.staleExpiry, hc, timerDue_of_due hrun hdue, if_true, Channel.enterStale, Channel.staleRaise, hdata,
      Channel.note_stale]
    rfl
  · rw [exec_staleTimerExpiry]
    cases hc : s.channel c with
    | none => simp only [State.staleExpiry, hc]
    | some ch =>
      simp only [State.staleExpiry, hc, timerDue_of_early fun start => hearly ch start hc, Bool.false_eq_true, if_false]

/-! ### Settling (R119 to R123, R128, R130) -/

theorem Channel.settle_bad {ch : Channel} {r : Sample} (h : r.flags.good = false) (c : ChannelId) :
    ch.settle c r = ({ ch with agree := 0 }, []) := by
  rw [Channel.settle, h]
  rfl

/-- R120: the record with a good sample as its candidate. -/
def Channel.agreed (ch : Channel) (v : BitVec 32) : Channel := { ch with candidate := some v, agree := ch.agreeAfter v }

theorem Channel.settle_agreeing {ch : Channel} {r : Sample} (h : r.flags.good = true)
    (hcount : ch.agreeAfter r.value ≠ ch.settings.settleCount) (c : ChannelId) :
    ch.settle c r = (ch.agreed r.value, []) := by
  rw [Channel.settle, if_pos h, if_neg hcount]
  rfl

theorem Channel.settle_settling {ch : Channel} {r : Sample} (h : r.flags.good = true)
    (hcount : ch.agreeAfter r.value = ch.settings.settleCount) (c : ChannelId) :
    ch.settle c r = (ch.agreed r.value).setSettled c r := by
  rw [Channel.settle, if_pos h, if_pos hcount]
  rfl

theorem Channel.setSettled_same {ch : Channel} {r : Sample} (h : ch.settledChanges r.value = false) (c : ChannelId) :
    ch.setSettled c r = ({ ch with settled := some ⟨r.value, ch.width⟩ }, []) := by
  rw [Channel.setSettled, h]
  rfl

/-- R122, R128: a change raises SETTLED, and the evaluation against the new value comes after it. -/
theorem Channel.setSettled_changed {ch : Channel} {r : Sample} (h : ch.settledChanges r.value = true) (c : ChannelId) :
    ch.setSettled c r
      = ({ ch with
            settled := some ⟨r.value, ch.width⟩
            limit := ch.limitFor ⟨r.value, ch.width⟩
            latches := ch.latches ||| if ch.limitFor ⟨r.value, ch.width⟩ = ch.limit then 0
              else (ch.limitFor ⟨r.value, ch.width⟩).latch },
          ch.note (.settled c ⟨r.value, ch.width⟩ (ch.settled.map Settled.value) r.sequence r.stamp)
            ++ if ch.limitFor ⟨r.value, ch.width⟩ = ch.limit then []
              else ch.note (.limit c ch.limit (ch.limitFor ⟨r.value, ch.width⟩) ⟨r.value, ch.width⟩ .settle)) := by
  have hevaluated := Channel.evaluate_settled (ch := { ch with settled := some ⟨r.value, ch.width⟩ }) rfl c .settle
  rw [Channel.setSettled, h, if_pos rfl, hevaluated]
  rfl

/-- The numbers of R120 lie in the integers. -/
theorem Channel.agrees_eq (ch : Channel) (v : BitVec 32) :
    ch.agrees v = match ch.candidate with
      | none => false
      | some k => decide (|readValue ch.config.signed ch.width v - readValue ch.config.signed ch.width k|
          ≤ ch.settings.deadband) := by
  unfold Channel.agrees
  cases ch.candidate with
  | none => rfl
  | some k =>
    simp only [Int.abs_eq_natAbs, Nat.cast_le]

theorem LimitState.latch_eq (l : LimitState) : l.latch = match l with
    | .normal => 0
    | .low => 0b0010000
    | .high => 0b0100000 := by
  cases l <;> rfl

/-- Settles O50: a bad sample, a good one that does not settle, one that settles the number held, and one that changes it, which
may move the limit state. -/
theorem settling : Obligations.Settling := by
  intro ch c r good number agrees count new changes run limit raised
  have hcount : ch.agreeAfter r.value = count := by
    have hagrees : ch.agrees r.value = agrees := Channel.agrees_eq ch r.value
    rw [Channel.agreeAfter, hagrees]
  have hrun : ch.agreed r.value = run := congrArg (fun n => { ch with candidate := some r.value, agree := n }) hcount
  have hchanges : run.settledChanges r.value = changes := rfl
  have hlimit : run.limitFor new = limit := rfl
  by_cases hgood : good = false
  · rw [if_pos hgood, Channel.settle_bad hgood]
  have htrue : good = true := Bool.eq_true_of_not_eq_false hgood
  rw [if_neg hgood]
  by_cases hsettles : count = ch.settings.settleCount
  swap
  · rw [if_pos hsettles, Channel.settle_agreeing htrue (hcount ▸ hsettles), hrun]
  rw [if_neg (not_not.2 hsettles), Channel.settle_settling htrue (hcount.trans hsettles), hrun]
  by_cases hsame : changes = false
  · rw [if_pos hsame, Channel.setSettled_same (hchanges.trans hsame)]
  have hchanged : run.settledChanges r.value = true := hchanges.trans (Bool.eq_true_of_not_eq_false hsame)
  rw [if_neg hsame, Channel.setSettled_changed hchanged, hlimit]
  by_cases hstays : limit = ch.limit
  · rw [if_pos hstays, if_pos hstays, if_pos hstays, hstays]
    simp only [BitVec.ofNat_eq_ofNat, BitVec.or_zero, List.append_nil]
    rfl
  · rw [if_neg hstays, if_neg hstays, if_neg hstays, LimitState.latch_eq]
    rfl

end Sys2Proof.Machine
end

section
/-! Staging (03): R57 and R58, how fragments join (O36). -/

namespace Sys2Proof.Machine

/-- R57, R58: the assembly list with a channel's record as its newest, and no other of the channel. -/
def Tracker.assembling (t : Tracker) (c : ChannelId) (received : Nat) (value : BitVec 32) (parity : Bool) : Tracker :=
  { t with assembly := (t.assembly.filter fun a => a.channel ≠ c) ++ [⟨c, received, value, parity⟩] }

/-- R58: the lists with a channel's record complete. -/
def Tracker.joined (t : Tracker) (c : ChannelId) (value : BitVec 32) (parity : Bool) : Tracker :=
  { t with
    assembly := t.assembly.filter fun a => a.channel ≠ c
    staging := t.staging ++ [⟨c, value, parity⟩] }

theorem filter_channel_bne (l : List Assembly) (c : ChannelId) :
    (l.filter fun a => a.channel != c) = l.filter fun a => a.channel ≠ c :=
  List.filter_congr fun a _ => by simp [bne, ne_eq, Bool.beq_eq_decide_eq]

theorem Tracker.place_eq (t : Tracker) (n : Nat) (a : Assembly) :
    t.place n a = if a.received = n then t.joined a.channel a.value a.parity
      else t.assembling a.channel a.received a.value a.parity := by
  unfold Tracker.place
  rw [filter_channel_bne]
  rfl

theorem Tracker.assembling_filter (t : Tracker) (c : ChannelId) (k : Nat) (v : BitVec 32) (p : Bool) :
    ((t.assembling c k v p).assembly.filter fun a => a.channel ≠ c) = t.assembly.filter fun a => a.channel ≠ c := by
  simp [Tracker.assembling]

/-- A record placed where the channel has one stands for that one. -/
theorem Tracker.assembling_assembling (t : Tracker) (c : ChannelId) (k m : Nat) (v w : BitVec 32) (p q : Bool) :
    (t.assembling c k v p).assembling c m w q = t.assembling c m w q := by
  rw [Tracker.assembling, Tracker.assembling_filter]
  rfl

theorem Tracker.joined_assembling (t : Tracker) (c : ChannelId) (k : Nat) (v w : BitVec 32) (p q : Bool) :
    (t.assembling c k v p).joined c w q = t.joined c w q := by
  rw [Tracker.joined, Tracker.assembling_filter]
  rfl

/-- R57: a fragment 0 begins its channel's record, whatever the lists held. -/
theorem Tracker.takeFragment_first (t : Tracker) {f : Fragment} (h : f.index = 0) (n : Nat) :
    t.takeFragment n f = if 1 = n then t.joined f.channel (BitVec.ofNat 32 f.value) f.parity
      else t.assembling f.channel 1 (BitVec.ofNat 32 f.value) f.parity := by
  rw [Tracker.takeFragment, if_pos h, Tracker.place_eq]

/-- The record a channel has on the list is the one found. -/
theorem Tracker.find_assembling (t : Tracker) (c : ChannelId) (k : Nat) (v : BitVec 32) (p : Bool) :
    ((t.assembling c k v p).assembly.find? fun a => a.channel == c) = some ⟨c, k, v, p⟩ := by
  have hnone : ((t.assembly.filter fun a => a.channel ≠ c).find? fun a => a.channel == c) = none := by
    simp
  rw [Tracker.assembling, List.find?_append, hnone]
  simp

/-- R57: the next fragment of a record joins behind the bits it has. -/
theorem Tracker.takeFragment_next (t : Tracker) {f : Fragment} (h : 0 < f.index) (v : BitVec 32) (p : Bool) (n : Nat) :
    (t.assembling f.channel f.index v p).takeFragment n f
      = if f.index + 1 = n then t.joined f.channel ((v <<< f.width) + BitVec.ofNat 32 f.value) (p || f.parity)
        else t.assembling f.channel (f.index + 1) ((v <<< f.width) + BitVec.ofNat 32 f.value) (p || f.parity) := by
  rw [Tracker.takeFragment, if_neg h.ne', Tracker.find_assembling]
  simp only [if_true, Tracker.place_eq, Tracker.joined_assembling, Tracker.assembling_assembling]

/-- R57: the fragments that are left of a record, in index order, complete it. -/
theorem Tracker.takeFragments_rest (t : Tracker) {c : ChannelId} {n : Nat} :
    ∀ {fs : List Fragment} {k : Nat} (v : BitVec 32) (p : Bool), 0 < k → fs ≠ [] → (∀ f ∈ fs, f.channel = c) →
      fs.map Fragment.index = List.range' k fs.length → k + fs.length = n →
      fs.foldl (fun (u : Tracker) f => u.takeFragment n f) (t.assembling c k v p)
        = t.joined c (fs.foldl (fun v f => (v <<< f.width) + BitVec.ofNat 32 f.value) v) (p || fs.any Fragment.parity) := by
  intro fs
  induction fs with
  | nil => exact fun _ _ _ hne => absurd rfl hne
  | cons f fs ih =>
    intro k v p hk _ hchannel hindex hn
    obtain ⟨rfl, htail⟩ : f.index = k ∧ fs.map Fragment.index = List.range' (k + 1) fs.length := by
      simpa [List.range'_succ] using hindex
    obtain rfl : f.channel = c := hchannel f List.mem_cons_self
    rw [List.foldl_cons, List.foldl_cons, Tracker.takeFragment_next t hk, List.any_cons, ← Bool.or_assoc]
    cases fs with
    | nil =>
      rw [if_pos (show f.index + 1 = n from hn)]
      simp
    | cons g fs =>
      have hlonger : f.index + 1 ≠ n := by
        rw [← hn]
        simp only [List.length_cons]
        omega
      rw [if_neg hlonger]
      refine ih _ _ (Nat.succ_pos _) (List.cons_ne_nil _ _) (fun x hx => hchannel x (List.mem_cons_of_mem _ hx)) htail ?_
      rw [← hn]
      simp only [List.length_cons]
      omega

/-- Settles O36: the first fragment begins the record, the others join it in turn and the last completes it. -/
theorem fragmentsJoin : Obligations.FragmentsJoin := by
  refine ⟨fun t c fs hne hchannel hindex => ?_, fun t f n hfirst hmany => ?_, fun t f n hlater hgap => ?_⟩
  · cases fs with
    | nil => exact absurd rfl hne
    | cons f fs =>
      obtain ⟨hzero, htail⟩ : f.index = 0 ∧ fs.map Fragment.index = List.range' 1 fs.length := by
        simpa [List.range_eq_range', List.range'_succ] using hindex
      obtain rfl : f.channel = c := hchannel f List.mem_cons_self
      have hvalue : ((0 : BitVec 32) <<< f.width) + BitVec.ofNat 32 f.value = BitVec.ofNat 32 f.value := by simp
      rw [List.foldl_cons, List.foldl_cons, Tracker.takeFragment_first t hzero, List.any_cons, hvalue]
      cases fs with
      | nil => simp [Tracker.joined]
      | cons g fs =>
        rw [if_neg (by simp)]
        exact Tracker.takeFragments_rest t _ _ Nat.one_pos (List.cons_ne_nil _ _)
          (fun x hx => hchannel x (List.mem_cons_of_mem _ hx)) htail (Nat.add_comm _ _)
  · rw [Tracker.takeFragment_first t hfirst, if_neg hmany.ne]
    rfl
  · rw [Tracker.takeFragment, if_neg hlater.ne']
    split
    · rfl
    · rename_i a hfound
      obtain ⟨ha, hsame⟩ : a ∈ t.assembly ∧ a.channel = f.channel :=
        ⟨List.mem_of_find?_eq_some hfound, by simpa using List.find?_some hfound⟩
      rw [if_neg (hgap a ha hsame)]

end Sys2Proof.Machine
end

section
/-! Notices (09): R168 to R170, the raises of a step, and the send before one of them (O58). -/

namespace Sys2Proof.Machine

/-! ### One raise at the Notice Unit (R168 to R170) -/

theorem NoticeUnit.take_refused {n : NoticeUnit} {r : Raise} (h : n.mask.getLsbD r.kind.index = false) : n.take r = n := by
  have hdisabled : n.enabled r.kind = false := h
  rw [NoticeUnit.take, hdisabled]
  rfl

/-- R169: the one notice about the raise is merged with it in its place. -/
theorem NoticeUnit.take_merged {n : NoticeUnit} {r : Raise} (h : n.mask.getLsbD r.kind.index = true)
    {before after : List Notice} {m : Notice} (hqueue : n.queue = before ++ m :: after)
    (hm : m.content.sameNotice r = true) (hothers : ∀ x ∈ before ++ after, x.content.sameNotice r = false) :
    n.take r = { n with queue := before ++ m.merge r :: after } := by
  have henabled : n.enabled r.kind = true := h
  have hsome : n.queue.any (fun m => m.content.sameNotice r) = true := by
    rw [hqueue]
    exact List.any_eq_true.2 ⟨m, by simp, hm⟩
  have hkeep (l : List Notice) (hl : ∀ x ∈ l, x.content.sameNotice r = false) :
      (l.map fun x => if x.content.sameNotice r then x.merge r else x) = l :=
    List.map_congr_left (g := id) (fun x hx => if_neg (by simp [hl x hx])) |>.trans (List.map_id l)
  have hbefore := hkeep before fun x hx => hothers x (List.mem_append_left _ hx)
  have hafter := hkeep after fun x hx => hothers x (List.mem_append_right _ hx)
  simp only [NoticeUnit.take, henabled, Bool.not_true, Bool.false_eq_true, if_false, hsome, if_true]
  rw [hqueue, List.map_append, List.map_cons, hbefore, hafter, if_pos hm]

theorem NoticeUnit.take_new {n : NoticeUnit} {r : Raise} (h : n.mask.getLsbD r.kind.index = true)
    (hnone : ∀ x ∈ n.queue, x.content.sameNotice r = false) :
    n.take r = if n.queue.length < 32 then { n with queue := n.queue ++ [⟨r, 0⟩] }
      else { n with dropped := min (n.dropped + 1) 65535 } := by
  have henabled : n.enabled r.kind = true := h
  have hany : n.queue.any (fun m => m.content.sameNotice r) = false := by simpa using hnone
  rw [NoticeUnit.take, henabled, hany]
  rfl

theorem min_succ_eq_ite (n max : Nat) : min (n + 1) max = if n < max then n + 1 else max := by
  split <;> omega

/-! ### The raises of a step (R168, R178) -/

/-- R180: the raises before which a send makes a difference. -/
theorem NoticeUnit.sendMatters_iff (n : NoticeUnit) (r : Raise) :
    n.sendMatters r = true ↔ n.mask.getLsbD r.kind.index = true ∧ ∃ head behind, n.queue = head :: behind
      ∧ (head.content.sameNotice r = true
        ∨ 32 ≤ n.queue.length ∧ ∀ x ∈ behind, x.content.sameNotice r = false) := by
  unfold NoticeUnit.sendMatters
  rw [Bool.and_eq_true]
  refine and_congr Iff.rfl ?_
  cases n.queue with
  | nil => simp
  | cons head behind => simp [Config.noticeSlots]

theorem State.raiseOne_quiet {s : State} {r : Raise} (h : s.notices.sendMatters r = false ∨ s.nextFrame ≠ some .notice) :
    s.raiseOne r = { s with notices := s.notices.take r } := by
  rcases s.raiseOne_cases r with hquiet | ⟨hmatters, hsend⟩
  · exact hquiet
  · have hidle : s.nextFrame ≠ some .notice := h.resolve_left (by rw [hmatters]; exact nofun)
    rw [hsend, State.sendInside, if_neg hidle]

/-- R178: before a raise for which it makes a difference the notice at the head may go. -/
theorem State.raiseOne_free {s : State} {r : Raise} (hmatters : s.notices.sendMatters r = true)
    (hfree : s.nextFrame = some .notice) :
    s.raiseOne r = (let u : State := { s with draws := s.draws + 1 }
      { u with notices := u.notices.take r })
    ∨ ∃ u, exec .noticeSend { s with draws := s.draws + 1 } = .next u
      ∧ s.raiseOne r = { u with notices := u.notices.take r } := by
  have hraise : s.raiseOne r = { s.sendInside with notices := s.sendInside.notices.take r } := by
    unfold State.raiseOne
    rw [if_pos hmatters]
  rcases s.sendInside_cases with ⟨hnot, -⟩ | ⟨-, hstay | hgo⟩
  · exact absurd hfree hnot
  · exact .inl (by rw [hraise, hstay])
  · exact .inr ⟨_, rfl, by rw [hraise, hgo]⟩

/-- Settles O58: the four cases of a raise, and the send before one that is at the Notice Unit's edge. -/
theorem raiseTaken : Obligations.RaiseTaken := by
  refine ⟨fun n r => ?_, fun s r rs => ?_⟩
  · intro about
    refine ⟨NoticeUnit.take_refused, fun before after m hmask hqueue hm hothers => ?_, fun hmask hnone hroom => ?_,
      fun hmask hnone hfull => ?_⟩
    · rw [NoticeUnit.take_merged hmask hqueue hm hothers, Notice.merge]
      simp only [Config.maxCoalesced, min_succ_eq_ite]
    · rw [NoticeUnit.take_new hmask hnone, if_pos hroom]
    · rw [NoticeUnit.take_new hmask hnone, if_neg (Nat.not_lt.2 hfull), min_succ_eq_ite]
  · intro about taken mayBegin matters
    have hmatters : s.notices.sendMatters r = true ↔ matters := s.notices.sendMatters_iff r
    refine ⟨rfl, rfl, fun hnot => State.raiseOne_quiet ?_, fun hmay hmat => ?_⟩
    · by_contra hboth
      obtain ⟨hyes, hnext⟩ := not_or.1 hboth
      obtain ⟨htx, hready, hreplies, -, hcredits⟩ := s.nextFrame_notice.1 (not_not.1 hnext)
      exact hnot ⟨⟨htx, hready, hreplies, hcredits⟩, hmatters.1 (Bool.eq_true_of_not_eq_false hyes)⟩
    · obtain ⟨htx, hready, hreplies, hcredits⟩ := hmay
      have hpending : s.notices.queue ≠ [] := by
        obtain ⟨-, head, behind, hqueue, -⟩ := hmat
        rw [hqueue]
        exact List.cons_ne_nil _ _
      exact State.raiseOne_free (hmatters.2 hmat) (s.nextFrame_notice.2 ⟨htx, hready, hreplies, hpending, hcredits⟩)

end Sys2Proof.Machine
end

section
/-! Channels (05): R105, CHANNEL_READ (O45); R106, R107 and R148, CHANNEL_CLEAR (O46). -/

namespace Sys2Proof.Machine

/-! ### The layout of a CHANNEL_READ reply (section 10.8) -/

theorem yesNo_eq (b : Bool) : yesNo b = [if b then 1 else 0] := by
  cases b <;> rfl

/-- Section 10.8: a field that may be absent, its bytes then being free. -/
theorem presentBytes_map {α : Type} (draw size : Nat) (v : Option α) (layout : α → List Byte) :
    presentBytes draw size (v.map layout) = v.elim (0 :: absent draw size) fun x => 1 :: layout x := by
  cases v <;> rfl

/-- R105: the value state, the stale reason and the last sample. -/
theorem ValueState.bytes_eq (d : ValueState) (draw : Nat) :
    byte d.reported.code ++ byteOrNone (d.reason.map StaleReason.code) ++ presentBytes draw 20 (d.last.map Sample.bytes)
      = match d with
        | .noData => 0 :: 0xFF :: 0 :: absent draw 20
        | .current r => 1 :: 0xFF :: 1 :: r.bytes
        | .stale why r => 2 :: BitVec.ofNat 8 why.code :: 1 :: r.bytes := by
  rw [presentBytes_map]
  cases d with
  | noData => rfl
  | current r => simp [ValueState.reported, ReportedState.code, ValueState.reason, ValueState.last, byteOrNone, byte]
  | stale why r => simp [ValueState.reported, ReportedState.code, ValueState.reason, ValueState.last, byteOrNone, byte]

/-- R105, section 10.8: the bytes of a BOUND channel's reply, group by group. -/
theorem Channel.report_eq (ch : Channel) (now : Time) (draw committed staged : Nat) :
    ch.report now draw committed staged =
      [1, BitVec.ofNat 8 ch.config.stream.index, BitVec.ofNat 8 ch.config.fragments, if ch.config.signed then 1 else 0]
        ++ be 2 ch.config.capacity ++ [BitVec.ofNat 8 ch.config.policy.code] ++ be 2 ch.config.watermark
        ++ [BitVec.ofNat 8 ch.width]
        ++ [BitVec.ofNat 8 ch.settings.settleCount] ++ be 2 ch.settings.deadband
        ++ [if ch.settings.limitsEnabled then 1 else 0]
        ++ be 4 ch.settings.low.toNat ++ be 4 ch.settings.high.toNat ++ be 4 ch.settings.hysteresis.toNat
        ++ be 2 ch.settings.staleWindow ++ [ch.settings.noticeSet.setWidth 8]
        ++ (match ch.data with
          | .noData => 0 :: 0xFF :: 0 :: absent draw 20
          | .current r => 1 :: 0xFF :: 1 :: r.bytes
          | .stale why r => 2 :: BitVec.ofNat 8 why.code :: 1 :: r.bytes)
        ++ be 4 ch.nextSeq.toNat
        ++ ch.candidate.elim (0 :: absent (draw + 1) 4) (fun v => 1 :: be 4 v.toNat)
        ++ [BitVec.ofNat 8 ch.agree]
        ++ ch.settled.elim (0 :: absent (draw + 2) 5) (fun v => 1 :: (be 4 v.value.toNat ++ [BitVec.ofNat 8 v.width]))
        ++ [BitVec.ofNat 8 ch.limit.code, ch.latches.setWidth 8]
        ++ ch.staleTimer.elim (0 :: absent (draw + 3) 2)
          (fun start => 1 :: be 2 ((ch.settings.staleWindow * 1000 - (now - start).toNat) / 1000))
        ++ be 2 ch.queue.records.length ++ be 2 ch.queue.dropped ++ [if ch.queue.flagArmed then 1 else 0]
        ++ (be 2 committed ++ [BitVec.ofNat 8 staged]) := by
  rw [← ValueState.bytes_eq]
  unfold Channel.report Channel.configBytes ChannelSettings.bytes Channel.stateBytes
  simp only [presentBytes_map, yesNo_eq, List.append_assoc, byte, List.cons_append, List.nil_append, BitVec.ofNat_toNat,
    remainingMs]
  rfl

/-! ### CHANNEL_READ (R105) -/

/-- R105: what CHANNEL_READ answers for a channel of the table. -/
def State.readChannel (s : State) (c : ChannelId) : Reply × State :=
  match s.channel c with
  | none => (.ok (unboundReport (s.committedClaims c) (s.stagedClaims c)), s)
  | some ch =>
    (.ok (ch.report s.timebase s.draws (s.committedClaims c) (s.stagedClaims c)), { s with draws := s.draws + 4 })

theorem exec_channelRead {s : State} {rest : List Request} {tag channel : Byte} {q : Request} (hq : q = ⟨0x23, tag, [channel]⟩)
    (h : s.fresh q rest) :
    exec .channelRead s = .next (
      if 127 < channel.toNat then s.answered q rest .badValue [0]
      else q.doneBy (State.readChannel { s with inbound := rest } (Fin.ofNat 128 channel.toNat))) := by
  have hasks : s.asks q rest kindChannelRead := by
    subst hq
    exact ⟨h, rfl, rfl⟩
  exact exec_asks_channel (work := fun c t => t.readChannel c) rfl (congrArg Request.payload hq) hasks

theorem Request.doneBy_readChannel_unbound {s : State} {c : ChannelId} (hc : s.channel c = none) (q : Request)
    (rest : List Request) :
    q.doneBy (State.readChannel { s with inbound := rest } c)
      = s.answered q rest .ok (unboundReport (s.committedClaims c) (s.stagedClaims c)) := by
  have hunbound : ({ s with inbound := rest } : State).channel c = none := hc
  rewrite [State.readChannel, hunbound]
  rfl

theorem Request.doneBy_readChannel_bound {s : State} {c : ChannelId} {ch : Channel} (hc : s.channel c = some ch) (q : Request)
    (rest : List Request) :
    q.doneBy (State.readChannel { s with inbound := rest } c)
      = State.answered { s with draws := s.draws + 4 } q rest .ok
        (ch.report s.timebase s.draws (s.committedClaims c) (s.stagedClaims c)) := by
  have hbound : ({ s with inbound := rest } : State).channel c = some ch := hc
  rewrite [State.readChannel, hbound]
  rfl

/-- Settles O45: the channel number is checked, and the two replies are laid out as section 10.8 gives. -/
theorem channelReported : Obligations.ChannelReported := by
  refine fun s tag channel rest hfresh => ⟨fun hbad => by rw [exec_channelRead rfl hfresh, if_pos hbad], fun c hc => ?_⟩
  have hread := exec_channelRead rfl hfresh
  rw [if_neg (ChannelId.not_127_lt hc), ChannelId.ofNat_eq hc] at hread
  intro claims
  refine ⟨fun hunbound => ?_, fun ch hbound => ⟨absent s.draws 20, absent (s.draws + 1) 4, absent (s.draws + 2) 5,
    absent (s.draws + 3) 2, absent_length _ _, absent_length _ _, absent_length _ _, absent_length _ _, ?_⟩⟩
  · rewrite [hread, Request.doneBy_readChannel_unbound hunbound]
    simp only [unboundReport, claims, List.append_assoc]
    rfl
  · rewrite [hread, Request.doneBy_readChannel_bound hbound, Channel.report_eq]
    cases ch.candidate <;> cases ch.settled <;> cases ch.staleTimer <;> rfl

/-! ### CHANNEL_CLEAR (R106, R107, R148) -/

theorem readClear_payload (channel parts set : Byte) :
    readClear [channel, parts, set] = ⟨channel.toNat, parts.toNat, set.toNat⟩ := by
  simp (disch := omega) only [readClear, fieldAt_cons_zero, fieldAt_cons_of_pos, Nat.reduceSub]

/-- R106: what a CHANNEL_CLEAR with fields in range does. -/
def State.clearChannel (s : State) (c : ChannelId) (f : ClearFields) : Reply × State :=
  match s.channel c with
  | none => (.plain .noSuch, s)
  | some ch =>
    (.ok (be 2 (if f.namesQueue then ch.queue.records.length else 0) ++ byte (ch.clear f).latches.toNat),
      s.setChannel c (some (ch.clear f)))

theorem runChannelClear_eq (p : List Byte) (s : State) : runChannelClear p s
    = unlessFailing (readClear p).failing s (s.clearChannel (Fin.ofNat 128 (readClear p).channel) (readClear p)) := rfl

/-- R106 check 1: the latch set counts only where the parts name the latches. -/
theorem ClearFields.failing_ofBytes (channel parts set : Byte) :
    ClearFields.failing ⟨channel.toNat, parts.toNat, set.toNat⟩ = firstFailing
      [(0, decide (127 < channel.toNat)), (1, decide (parts = 0 ∨ 7 < parts.toNat)),
        (2, decide (parts.getLsbD 0 = true ∧ 127 < set.toNat))] := by
  have hset : (parts.toNat.testBit 0 && decide (127 < set.toNat)) = decide (parts.getLsbD 0 = true ∧ 127 < set.toNat) := by
    rw [Bool.decide_and, Bool.decide_eq_true]
    rfl
  rw [← hset]
  simp only [ClearFields.failing, ClearFields.namesLatches, bitVec_toNat_eq_zero_iff]

/-- R106: a row of CHANNEL_CLEAR takes a request that names its part or nothing valid. -/
theorem takesClear_of_parts {part : Nat} {tag channel parts set : Byte}
    (h : parts = 0 ∨ 7 < parts.toNat ∨ parts.getLsbD part = true) :
    takesClear part ⟨0x24, tag, [channel, parts, set]⟩ = true := by
  have hbits : (parts = 0 ∨ 7 < parts.toNat) ∨ parts.toNat.testBit part = true := or_assoc.2 h
  simp only [takesClear, readClear_payload, bitVec_toNat_eq_zero_iff]
  rcases hbits with hbits | hbits
  · rw [decide_eq_true hbits, Bool.or_true]
    rfl
  · rw [hbits, Bool.or_true]
    rfl

/-- R106: whichever row takes it, CHANNEL_CLEAR makes its three checks and then does every part it names. -/
theorem exec_channelClear {row : Instr × Nat}
    (hrow : row ∈ [(Instr.channelClearLatches, 0), (Instr.channelClearValue, 1), (Instr.channelClearQueue, 2)]) {s : State}
    {rest : List Request} {tag channel parts set : Byte} {q : Request} (hq : q = ⟨0x24, tag, [channel, parts, set]⟩)
    (h : s.fresh q rest) (hparts : parts = 0 ∨ 7 < parts.toNat ∨ parts.getLsbD row.2 = true) :
    exec row.1 s = .next (
      if 127 < channel.toNat then s.answered q rest .badValue [0]
      else if parts = 0 ∨ 7 < parts.toNat then s.answered q rest .badValue [1]
      else if parts.getLsbD 0 = true ∧ 127 < set.toNat then s.answered q rest .badValue [2]
      else q.doneBy (State.clearChannel { s with inbound := rest } (Fin.ofNat 128 channel.toNat)
        ⟨channel.toNat, parts.toNat, set.toNat⟩)) := by
  have htakes : takesClear row.2 q = true := by
    rw [hq]
    exact takesClear_of_parts hparts
  have hexec : exec row.1 s = .next (actAny q { s with inbound := rest }) := by
    simp only [List.mem_cons, List.not_mem_nil, or_false] at hrow
    rcases hrow with rfl | rfl | rfl <;> exact exec_takesFresh h rfl htakes nofun
  have hkind : q.kind = kindChannelClear := congrArg Request.kind hq
  have hpayload : q.payload = [channel, parts, set] := congrArg Request.payload hq
  have hallowed : lengthAllowed q.kind q.payload.length = true := by
    rw [hkind, hpayload]
    rfl
  have hchecked : runChecked runChannelClear q { s with inbound := rest }
      = q.doneBy (runChannelClear q.payload { s with inbound := rest }) := by
    rw [runChecked, if_pos hallowed]
    rfl
  rw [hexec, actAny_run hkind (by decide) rfl, hchecked, runChannelClear_eq, hpayload, readClear_payload,
    ClearFields.failing_ofBytes]
  simp only [Request.doneBy_check, Request.doneBy_noCheck]
  rfl

/-- R106, R107, R148: the record after the named parts, field by field. -/
theorem Channel.clear_eq (ch : Channel) (channel parts set : Byte) :
    ch.clear ⟨channel.toNat, parts.toNat, set.toNat⟩ = { ch with
      latches := if parts.getLsbD 0 then ch.latches &&& ~~~(set.setWidth 7) else ch.latches
      data := if parts.getLsbD 1 then .noData else ch.data
      candidate := if parts.getLsbD 1 then none else ch.candidate
      agree := if parts.getLsbD 1 then 0 else ch.agree
      settled := if parts.getLsbD 1 then none else ch.settled
      limit := if parts.getLsbD 1 then .normal else ch.limit
      staleTimer := if parts.getLsbD 1 then none else ch.staleTimer
      queue := if parts.getLsbD 2 then ⟨[], 0, true⟩ else ch.queue } := by
  have hbit (k : Nat) : parts.toNat.testBit k = parts.getLsbD k := rfl
  simp only [Channel.clear, ClearFields.namesLatches, ClearFields.namesValue, ClearFields.namesQueue, hbit,
    BitVec.ofNat_toNat, Channel.clearLatches, Channel.clearValue, Channel.clearQueue, SampleQueue.empty]
  cases parts.getLsbD 0 <;> cases parts.getLsbD 1 <;> cases parts.getLsbD 2 <;> rfl

theorem Request.doneBy_clearChannel_unbound {s : State} {c : ChannelId} (hc : s.channel c = none) (q : Request)
    (rest : List Request) (f : ClearFields) :
    q.doneBy (State.clearChannel { s with inbound := rest } c f) = s.answered q rest .noSuch [] := by
  have hunbound : ({ s with inbound := rest } : State).channel c = none := hc
  rewrite [State.clearChannel, hunbound]
  rfl

theorem Request.doneBy_clearChannel_bound {s : State} {c : ChannelId} {ch : Channel} (hc : s.channel c = some ch)
    (q : Request) (rest : List Request) (f : ClearFields) :
    q.doneBy (State.clearChannel { s with inbound := rest } c f)
      = (s.setChannel c (some (ch.clear f))).answered q rest .ok
        (be 2 (if f.namesQueue then ch.queue.records.length else 0) ++ [(ch.clear f).latches.setWidth 8]) := by
  have hbound : ({ s with inbound := rest } : State).channel c = some ch := hc
  rewrite [State.clearChannel, hbound, ← BitVec.ofNat_toNat]
  rfl

/-- Settles O46: the rows make one list of checks, and the parts together give the record of the statement. -/
theorem channelCleared : Obligations.ChannelCleared := by
  intro row hrow s tag channel parts set rest q hfresh hparts
  have hclear := exec_channelClear hrow rfl hfresh hparts
  refine ⟨fun hbad => by rw [hclear, if_pos hbad], fun c hc => ?_⟩
  intro after
  rw [if_neg (ChannelId.not_127_lt hc), ChannelId.ofNat_eq hc] at hclear
  rw [hclear]
  refine congrArg Host.Outcome.next (if_congr Iff.rfl rfl (if_congr Iff.rfl rfl ?_))
  cases hbound : s.channel c with
  | none => exact Request.doneBy_clearChannel_unbound hbound q rest _
  | some ch =>
    rewrite [Request.doneBy_clearChannel_bound hbound, Channel.clear_eq]
    rfl

end Sys2Proof.Machine
end

section
/-! The transmitter (10): R178, R195 and R196, what is sent; section 10.8, the notice payloads (O8). -/

namespace Sys2Proof.Machine

/-! ### The three sends (R178, R195, R196) -/

theorem Ready.body_powerOn : Ready.powerOn.body = [0x7F, 0, 0, 0, 0x21, 0x20, 0x01] := rfl

theorem Ready.body_request (tag : Byte) : (Ready.request tag).body = [0x7F, 1, 1, tag, 0x21, 0x20, 0x01] := rfl

/-- R196: a READY is sent exactly when it waits and no frame is in progress. -/
theorem State.sendReady_eq (s : State) : s.sendReady = match s.tx, s.ready with
    | none, some .powerOn => { s with ready := none, tx := some (linkFrame [0x7F, 0, 0, 0, 0x21, 0x20, 0x01]) }
    | none, some (.request tag) => { s with ready := none, tx := some (linkFrame [0x7F, 1, 1, tag, 0x21, 0x20, 0x01]) }
    | _, _ => s := by
  unfold State.sendReady State.nextFrame
  cases htx : s.tx with
  | some frame => simp
  | none =>
    cases hready : s.ready with
    | none => by_cases hreplies : s.replies = [] <;> simp [hreplies]
    | some r => cases r <;> simp [Ready.body_powerOn, Ready.body_request]

/-- R195: the oldest reply is sent when no READY waits. -/
theorem State.sendReply_eq (s : State) : s.sendReply = match s.tx, s.ready, s.replies with
    | none, none, body :: rest => { s with replies := rest, tx := some (linkFrame body) }
    | _, _, _ => s := by
  unfold State.sendReply State.nextFrame
  cases htx : s.tx with
  | some frame => simp
  | none =>
    cases hready : s.ready with
    | some r => simp
    | none => cases hreplies : s.replies <;> simp

/-- R178: the head notice is sent when neither READY nor reply waits and a credit is held. -/
theorem State.noticeSend_eq (s : State) : s.noticeSend = match s.tx, s.ready, s.replies, s.notices.queue with
    | none, none, [], n :: rest =>
      if 0 < s.notices.credits then
        { s with
          notices := ⟨rest, s.notices.mask, s.notices.credits - 1, 0, s.notices.nextSeq + 1⟩
          tx := some (linkFrame (byte (0x40 + n.content.kind.index) ++ be 2 s.notices.nextSeq.toNat
            ++ be 2 s.notices.dropped ++ byte n.coalesced ++ n.content.bytes s.draws))
          draws := s.draws + 1 }
      else s
    | _, _, _, _ => s := by
  unfold State.noticeSend State.nextFrame
  cases htx : s.tx with
  | some frame => simp
  | none =>
    cases hready : s.ready with
    | some r => simp
    | none =>
      cases hreplies : s.replies with
      | cons body rest => simp
      | nil =>
        cases hqueue : s.notices.queue with
        | nil => simp
        | cons n rest => by_cases hcredits : 0 < s.notices.credits <;> simp [hcredits, Notice.body]

/-! ### The payloads of the nine notice kinds (section 10.8) -/

theorem SyncReport.bytes_eq (i : StreamId) (r : SyncReport) (draw : Nat) : (Raise.syncState i r).bytes draw =
    [BitVec.ofNat 8 i.index,
      BitVec.ofNat 8 (([.off, .hunt, .verify, .locked, .coast, .stopped] : List SyncMode).idxOf r.mode),
      match r.phase with
      | .strict => 0
      | .relaxed => 1,
      match r.major with
      | .noMajor => 0
      | .majorSearch => 1
      | .majorLocked => 2,
      match r.selected with
      | some k => BitVec.ofNat 8 k.val
      | none => 0xFF,
      match r.polarity with
      | .normal => 0
      | .inverted => 1,
      BitVec.ofNat 8 (([.armed, .disarmed, .verified, .miss, .recovered, .misses, .idle, .windowRelaxed, .windowStopped,
        .majorGained, .majorLost, .reset] : List SyncReason).idxOf r.reason)] := by
  have hmode : r.mode.code = ([.off, .hunt, .verify, .locked, .coast, .stopped] : List SyncMode).idxOf r.mode := by
    cases r.mode <;> rfl
  have hreason : r.reason.code = ([.armed, .disarmed, .verified, .miss, .recovered, .misses, .idle, .windowRelaxed,
      .windowStopped, .majorGained, .majorLost, .reset] : List SyncReason).idxOf r.reason := by
    cases r.reason <;> rfl
  have hphase : BitVec.ofNat 8 r.phase.code = match r.phase with
      | .strict => 0
      | .relaxed => 1 := by
    cases r.phase <;> rfl
  have hmajor : BitVec.ofNat 8 r.major.code = match r.major with
      | .noMajor => 0
      | .majorSearch => 1
      | .majorLocked => 2 := by
    cases r.major <;> rfl
  have hselected : BitVec.ofNat 8 ((r.selected.map Fin.val).getD 0xFF) = match r.selected with
      | some k => BitVec.ofNat 8 k.val
      | none => 0xFF := by
    cases r.selected <;> rfl
  have hpolarity : BitVec.ofNat 8 r.polarity.code = match r.polarity with
      | .normal => 0
      | .inverted => 1 := by
    cases r.polarity <;> rfl
  rw [← hmode, ← hreason, ← hphase, ← hmajor, ← hselected, ← hpolarity]
  rfl

/-- Settles O8: the three sends case by case, and each payload written out field by field. -/
theorem transmitterSends : Obligations.TransmitterSends := by
  refine ⟨fun s => ⟨?_, ?_, rfl⟩, fun s => ⟨s.draws, ?_⟩, ?_⟩
  · exact congrArg Host.Outcome.next s.sendReady_eq
  · exact congrArg Host.Outcome.next s.sendReply_eq
  · exact congrArg Host.Outcome.next s.noticeSend_eq
  intro flags cause stale limit state
  have hcause (w : LimitCause) : BitVec.ofNat 8 w.code = cause w := by cases w <;> rfl
  have hstale (w : StaleReason) : BitVec.ofNat 8 w.code = stale w := by cases w <;> rfl
  have hlimit (l : LimitState) : l.code = limit l := by cases l <;> rfl
  have hstate (v : ReportedState) : v.code = state v := by cases v <;> rfl
  refine ⟨by decide, fun draw => ⟨fun i r => SyncReport.bytes_eq i r draw, fun c r => ?_, fun c new previous sequence stamp =>
    ⟨?_, absent draw 4, absent_length draw 4, ?_⟩, fun c old new v why => ?_, fun c why sequence stamp => ?_,
    fun c fill watermark sequence => ?_, fun c policy lost dropped fill => ?_, fun r i count entries => ?_,
    fun i edits committed => rfl⟩⟩
  · simp only [Raise.bytes, Sample.bytes_eq, byte, List.cons_append, List.nil_append]
    rfl
  · simp [Raise.bytes, byte, yesNo]
  · simp [Raise.bytes, byte, yesNo]
  · simp only [Raise.bytes, byte, hlimit, hcause, List.append_assoc, List.cons_append, List.nil_append]
  · simp only [Raise.bytes, byte, hstale, List.cons_append, List.nil_append]
  · simp only [Raise.bytes, byte, List.append_assoc, List.cons_append, List.nil_append]
  · cases policy <;> rfl
  · have hentry (e : RosterEntry) : e.bytes =
        [BitVec.ofNat 8 e.channel.val,
            BitVec.ofNat 8 (64 * state e.state + 16 * limit e.limit + 8 * e.settledPresent.toNat)]
          ++ be 4 e.lastValue.toNat ++ [flags e.lastFlags] ++ be 2 e.lastSequence.toNat ++ be 4 e.settledValue.toNat := by
      rw [RosterEntry.bytes, hstate, hlimit, Nat.mul_comm (state _), Nat.mul_comm (limit _), Nat.mul_comm _ 8,
        Quality.code_eq]
      rfl
    simp only [Raise.bytes, funext hentry, byte, List.append_assoc, List.cons_append, List.nil_append]

end Sys2Proof.Machine
end

section
/-! The receiver (10): R185 and R187, bytes, stop bits and the gap timer (O9); R184 and R188, a frame as it is sent (O10). -/

namespace Sys2Proof.Machine

/-! ### One byte at the receiver (R185) -/

theorem readBE_pair (hi lo : Byte) : readBE [hi, lo] = hi.toNat * 256 + lo.toNat := by
  simp [readBE]

theorem Receiver.eq_reset {r : Receiver} (h : r.legal) (hm : r.mode = .seek) : r = .reset := by
  obtain ⟨mode, buffer, length, gapTimer⟩ := r
  obtain ⟨hshaped, hgap⟩ := h
  obtain rfl : mode = .seek := hm
  obtain ⟨rfl, rfl⟩ : buffer = [] ∧ length = 0 := hshaped
  obtain rfl : gapTimer = none := hgap.2 rfl
  rfl

theorem Receiver.bound_eq (r : Receiver) : ∃ n, r.bound = n + 2 :=
  Nat.exists_eq_add_of_le' (by unfold Receiver.bound; nlinarith)

/-- R185: the receiver with the gap timer as it runs after a byte taken at `now`. -/
def Receiver.timed (r : Receiver) (now : Time) : Receiver :=
  { r with gapTimer := if r.mode = .seek then none else some now }

theorem State.takeByte_stay {s : State} {b : Byte} {r : Receiver} (h : s.rx.take b = .stay r) :
    s.takeByte b = { s with rx := r.timed s.timebase } := by
  obtain ⟨n, hn⟩ := s.rx.bound_eq
  have hbytes : Receiver.takeBytes s.rx.bound s.rx [b] = (r, []) := by
    simp only [hn, Receiver.takeBytes, h]
  rw [State.takeByte, hbytes]
  rfl

theorem State.takeByte_frame {s : State} {b : Byte} {body : List Byte} (h : s.rx.take b = .frame body) :
    s.takeByte b = { s with rx := .reset, inbound := enqueue s.inbound body } := by
  obtain ⟨n, hn⟩ := s.rx.bound_eq
  have hbytes : Receiver.takeBytes s.rx.bound s.rx [b] = (.reset, [body]) := by
    simp only [hn, Receiver.takeBytes, h]
  rw [State.takeByte, hbytes]
  rfl

theorem State.takeByte_seek {s : State} (h : s.rx = .reset) (b : Byte) :
    s.takeByte b = if b = 0xD5 then { s with rx := ⟨.length, [0xD5], 0, some s.timebase⟩ } else s := by
  by_cases hb : b = 0xD5
  · have htake : s.rx.take b = .stay ⟨.length, [b], 0, none⟩ := by
      rw [h, Receiver.take]
      exact if_pos hb
    rw [State.takeByte_stay htake, if_pos hb, hb]
    rfl
  · have htake : s.rx.take b = .stay s.rx := by
      rw [h, Receiver.take]
      exact if_neg hb
    rw [State.takeByte_stay htake, if_neg hb]
    exact congrArg (fun r => { s with rx := r }) (show s.rx.timed s.timebase = s.rx by rw [h]; rfl)

theorem State.takeByte_firstLength {s : State} {gap : Option Time} (h : s.rx = ⟨.length, [0xD5], 0, gap⟩) (b : Byte) :
    s.takeByte b = { s with rx := ⟨.length, [0xD5, b], 0, some s.timebase⟩ } := by
  have htake : s.rx.take b = .stay ⟨.length, [0xD5, b], 0, gap⟩ := by
    rw [h]
    rfl
  exact State.takeByte_stay htake

/-- R185: a length in range begins the body. -/
theorem State.takeByte_secondLength {s : State} {hi : Byte} {gap : Option Time} (h : s.rx = ⟨.length, [0xD5, hi], 0, gap⟩)
    {b : Byte} (hrange : 2 ≤ hi.toNat * 256 + b.toNat ∧ hi.toNat * 256 + b.toNat ≤ 250) :
    s.takeByte b = { s with rx := ⟨.body, [0xD5, hi, b], hi.toNat * 256 + b.toNat, some s.timebase⟩ } := by
  have htake : s.rx.take b = .stay ⟨.body, [0xD5, hi, b], hi.toNat * 256 + b.toNat, gap⟩ := by
    have hlength : readBE ([0xD5, hi].tail ++ [b]) = hi.toNat * 256 + b.toNat := readBE_pair hi b
    rw [h]
    show Receiver.takeLength _ b = _
    rw [Receiver.takeLength, if_neg (by simp)]
    dsimp only
    rw [hlength, if_pos hrange]
    rfl
  exact State.takeByte_stay htake

/-- R185: a body byte is stored, and the last of the body moves on to CHECK. -/
theorem State.takeByte_body {s : State} (hm : s.rx.mode = .body) {n : Nat} (hbuffer : s.rx.buffer.length = 3 + n)
    (hn : n < s.rx.length) (b : Byte) :
    s.takeByte b = { s with
      rx := ⟨if n + 1 = s.rx.length then .check else .body, s.rx.buffer ++ [b], s.rx.length, some s.timebase⟩ } := by
  have htake : s.rx.take b = .stay
      { s.rx with mode := if n + 1 = s.rx.length then .check else .body, buffer := s.rx.buffer ++ [b] } := by
    rw [Receiver.take, hm]
    show Receiver.takeBody _ b = _
    rw [Receiver.takeBody, hbuffer]
    by_cases hlast : n + 1 = s.rx.length
    · rw [if_neg (by omega), if_pos hlast]
    · rw [if_pos (by omega), if_neg hlast, ← hm]
  rw [State.takeByte_stay htake]
  split <;> rfl

theorem State.takeByte_firstCheck {s : State} (hm : s.rx.mode = .check) (hbuffer : s.rx.buffer.length = 3 + s.rx.length)
    (b : Byte) :
    s.takeByte b = { s with rx := ⟨.check, s.rx.buffer ++ [b], s.rx.length, some s.timebase⟩ } := by
  have htake : s.rx.take b = .stay { s.rx with buffer := s.rx.buffer ++ [b] } := by
    rw [Receiver.take, hm]
    show Receiver.takeCheck _ b = _
    rw [Receiver.takeCheck, if_pos (by omega)]
  rw [State.takeByte_stay htake, Receiver.timed, hm]
  rfl

/-- R184: the check of a frame is the two bytes behind what it covers. -/
theorem frameValid_eq (start c d : Byte) (covered : List Byte) :
    frameValid (start :: (covered ++ [c, d])) = decide (c.toNat * 256 + d.toNat = (linkCheck covered).toNat) := by
  have hlength : (start :: (covered ++ [c, d])).length = covered.length + 3 := by simp
  have hcheck : (start :: (covered ++ [c, d])).drop (covered.length + 3 - 2) = [c, d] := by simp
  have hcovered : (covered ++ [c, d]).take (covered.length + 3 - 3) = covered := by simp
  rw [frameValid, hlength, hcheck, List.tail_cons, hcovered, readBE_pair]

theorem enqueue_request (inbound : List Request) (kind tag : Byte) (payload : List Byte) :
    enqueue inbound (kind :: tag :: payload)
      = if inbound.length < 4 then inbound ++ [⟨kind, tag, payload⟩] else inbound := rfl

/-- R185, R188: the last byte of a frame whose check is right hands its body over. -/
theorem State.takeByte_lastCheck {s : State} {hi lo kind tag c b : Byte} {payload : List Byte} {gap : Option Time}
    (h : s.rx = ⟨.check, 0xD5 :: hi :: lo :: kind :: tag :: (payload ++ [c]), payload.length + 2, gap⟩)
    (hcheck : (linkCheck (hi :: lo :: kind :: tag :: payload)).toNat = c.toNat * 256 + b.toNat) :
    s.takeByte b = { s with
      rx := ⟨.seek, [], 0, none⟩
      inbound := if s.inbound.length < 4 then s.inbound ++ [⟨kind, tag, payload⟩] else s.inbound } := by
  have hwhole : (0xD5 :: hi :: lo :: kind :: tag :: (payload ++ [c])) ++ [b]
      = 0xD5 :: ((hi :: lo :: kind :: tag :: payload) ++ [c, b]) := by simp
  have hvalid : frameValid ((0xD5 :: hi :: lo :: kind :: tag :: (payload ++ [c])) ++ [b]) = true := by
    rw [hwhole, frameValid_eq, hcheck]
    exact decide_eq_true rfl
  have htake : s.rx.take b = .frame (kind :: tag :: payload) := by
    rw [h]
    show Receiver.takeCheck _ b = _
    rw [Receiver.takeCheck, if_neg (by simp; omega), if_pos hvalid]
    simp
  rw [State.takeByte_frame htake, enqueue_request]
  rfl

theorem State.dropPartial_eq {s : State} (h : s.rx.legal) : s.dropPartial = { s with rx := .reset } := by
  unfold State.dropPartial
  split
  next hseek => exact congrArg (fun r => { s with rx := r }) (Receiver.eq_reset h hseek)
  next => rfl

/-- R185: outside BODY and CHECK no length is held. -/
theorem Receiver.eq_of_length {r : Receiver} (h : r.shaped) (hm : r.mode = .length) {buffer : List Byte}
    (hbuffer : r.buffer = buffer) : r = ⟨.length, buffer, 0, r.gapTimer⟩ := by
  obtain ⟨mode, held, length, gapTimer⟩ := r
  obtain rfl : mode = .length := hm
  obtain rfl : held = buffer := hbuffer
  obtain ⟨rfl, -⟩ : length = 0 ∧ _ := h
  rfl

/-- R185: a body that is not complete is shorter than its length. -/
theorem Receiver.stored_lt_of_body {r : Receiver} (h : r.shaped) (hm : r.mode = .body) {n : Nat}
    (hbuffer : r.buffer.length = 3 + n) : n < r.length := by
  unfold Receiver.shaped at h
  rw [hm] at h
  obtain ⟨-, -, rest, hrest, -, -, hshort⟩ := h
  rw [hrest, List.length_cons] at hbuffer
  omega

/-- Settles O9: the byte by the receiver's state, and the two ways a partial frame is dropped. -/
theorem receiverTakesBytes : Obligations.ReceiverTakesBytes := by
  refine ⟨fun s b hlegal => ⟨fun hseek => ?_, fun hlength hbuffer => ?_, fun hi hlength hbuffer hlow hhigh => ?_,
    fun n hbody hbuffer => ?_, fun hcheck hbuffer => ?_, fun hi lo kind tag c payload hcheck hbuffer hlength hright => ?_⟩,
    fun s b hlegal => ⟨congrArg Host.Outcome.next (State.dropPartial_eq hlegal), ?_⟩⟩
  · exact congrArg Host.Outcome.next (State.takeByte_seek (Receiver.eq_reset hlegal hseek) b)
  · exact congrArg Host.Outcome.next (State.takeByte_firstLength (Receiver.eq_of_length hlegal.1 hlength hbuffer) b)
  · exact congrArg Host.Outcome.next
      (State.takeByte_secondLength (Receiver.eq_of_length hlegal.1 hlength hbuffer) ⟨hlow, hhigh⟩)
  · exact congrArg Host.Outcome.next (State.takeByte_body hbody hbuffer (Receiver.stored_lt_of_body hlegal.1 hbody hbuffer) b)
  · exact congrArg Host.Outcome.next (State.takeByte_firstCheck hcheck hbuffer b)
  · have hrx : s.rx = ⟨.check, 0xD5 :: hi :: lo :: kind :: tag :: (payload ++ [c]), payload.length + 2, s.rx.gapTimer⟩ := by
      rw [← hbuffer, ← hlength, ← hcheck]
    exact congrArg Host.Outcome.next (State.takeByte_lastCheck hrx hright)
  · have hexpiry : s.gapExpiry = if timerDue s.timebase s.rx.gapTimer Config.gapMs then { s with rx := .reset } else s := by
      rw [State.gapExpiry, State.dropPartial_eq hlegal]
    refine congrArg Host.Outcome.next (hexpiry.trans ?_)
    cases s.rx.gapTimer with
    | none => rfl
    | some start =>
      refine if_congr ?_ rfl rfl
      exact decide_eq_true_iff

end Sys2Proof.Machine
end

section
/-! The receiver (10): R184 and R188, a frame as it is sent (O10); R186, a discarded frame's bytes taken again (O11). -/

namespace Sys2Proof.Machine

/-- A frame is its bytes, taken one after another with valid stop bits. -/
theorem exec_frameReceived (bytes : List Byte) (s : State) :
    exec (.frameReceived (bytes.map fun b => ⟨b, true⟩)) s = .next (bytes.foldl State.takeByte s) :=
  congrArg Host.Outcome.next List.foldl_map

/-! ### The layout of a frame and its check (R184) -/

theorem be_succ (n v : Nat) : be (n + 1) v = BitVec.ofNat 8 (v / 256 ^ n) :: be n v := by
  induction n generalizing v with
  | zero => simp [be]
  | succ n ih =>
    have hpower : v / 256 / 256 ^ n = v / 256 ^ (n + 1) := by rw [Nat.div_div_eq_div_mul, Nat.pow_succ']
    rw [be, ih, List.cons_append, hpower]
    rfl

theorem be_two (v : Nat) : be 2 v = [BitVec.ofNat 8 (v / 256), BitVec.ofNat 8 v] := by
  rw [be_succ, be_succ]
  simp [be]

/-- R184: the two bytes of a check, as numbers and as bytes. -/
theorem check_bytes (check : BitVec 16) :
    be 2 check.toNat = [(check >>> 8).setWidth 8, check.setWidth 8] := by
  have hhigh : BitVec.ofNat 8 (check.toNat / 256) = (check >>> 8).setWidth 8 := by
    apply BitVec.eq_of_toNat_eq
    simp [Nat.shiftRight_eq_div_pow]
  rw [be_two, hhigh, BitVec.ofNat_toNat]

theorem linkFrame_eq (body : List Byte) : linkFrame body
    = 0xD5 :: BitVec.ofNat 8 (body.length / 256) :: BitVec.ofNat 8 body.length :: (body ++
      be 2 (linkCheck (BitVec.ofNat 8 (body.length / 256) :: BitVec.ofNat 8 body.length :: body)).toNat) := by
  rw [linkFrame, be_two body.length]
  rfl

/-- R184: one bit at the check register. -/
theorem crcBit_link (reg : BitVec 16) (bit : Bool) : crcBit 0x1021 reg bit
    = if reg.getLsbD 15 = bit then reg <<< 1 else (reg <<< 1) ^^^ 0x1021 := by
  have hmsb : reg.msb = reg.getLsbD 15 := by simp [BitVec.msb_eq_getLsbD_last]
  rw [crcBit, hmsb]
  by_cases h : reg.getLsbD 15 = bit
  · rw [if_pos h, h, bne_self_eq_false]
    rfl
  · rw [if_neg h, if_pos (bne_iff_ne.2 h)]

theorem linkCheck_append (covered : List Byte) (b : Byte) : linkCheck (covered ++ [b])
    = ([7, 6, 5, 4, 3, 2, 1, 0] : List Nat).foldl
      (fun (reg : BitVec 16) n => if reg.getLsbD 15 = b.getLsbD n then reg <<< 1 else (reg <<< 1) ^^^ 0x1021) (linkCheck covered) := by
  simp only [← crcBit_link]
  rw [linkCheck, List.foldl_append]
  rfl

/-! ### The bytes of a frame at the receiver (R185, R188) -/

/-- R185: the bytes of a body are stored, and the last of them moves on to CHECK. -/
theorem State.takeBytes_body {hi lo : Byte} {n : Nat} :
    ∀ {rest taken : List Byte} {s : State} {gap : Option Time}, rest ≠ [] → taken.length + rest.length = n →
      s.rx = ⟨.body, 0xD5 :: hi :: lo :: taken, n, gap⟩ →
      rest.foldl State.takeByte s
        = { s with rx := ⟨.check, 0xD5 :: hi :: lo :: (taken ++ rest), n, some s.timebase⟩ } := by
  intro rest
  induction rest with
  | nil => exact fun hne => absurd rfl hne
  | cons b rest ih =>
    intro taken s gap _ hlength hrx
    rw [List.length_cons] at hlength
    have hmode : s.rx.mode = .body := by rw [hrx]
    have hheld : s.rx.length = n := by rw [hrx]
    have hbuffer : s.rx.buffer.length = 3 + taken.length := by
      rw [hrx]
      simp only [List.length_cons]
      omega
    have hstored : s.rx.buffer ++ [b] = 0xD5 :: hi :: lo :: (taken ++ [b]) := by rw [hrx]; rfl
    have hbyte := State.takeByte_body hmode hbuffer (by omega) b
    rw [hheld, hstored] at hbyte
    rw [List.foldl_cons, hbyte]
    cases rest with
    | nil => rw [if_pos (by simpa using hlength), List.foldl_nil]
    | cons c rest =>
      rw [List.length_cons] at hlength
      rw [if_neg (by omega), ih (taken := taken ++ [b]) (List.cons_ne_nil _ _) (by simp; omega) rfl]
      simp

/-- R185: the start byte, a length in range and a body of that length leave the receiver before the check. -/
theorem State.takeBytes_covered {s : State} (h : s.rx = .reset) {hi lo : Byte} {body : List Byte}
    (hlength : hi.toNat * 256 + lo.toNat = body.length) (hrange : 2 ≤ body.length ∧ body.length ≤ 250) :
    (0xD5 :: hi :: lo :: body).foldl State.takeByte s
      = { s with rx := ⟨.check, 0xD5 :: hi :: lo :: body, body.length, some s.timebase⟩ } := by
  have hne : body ≠ [] := by
    rintro rfl
    exact absurd hrange.1 (by decide)
  rw [List.foldl_cons, State.takeByte_seek h, if_pos rfl, List.foldl_cons, State.takeByte_firstLength rfl, List.foldl_cons,
    State.takeByte_secondLength rfl (hlength ▸ hrange), hlength]
  rw [State.takeBytes_body (taken := []) hne (Nat.zero_add _) rfl]
  rfl

/-- R184 to R188: a frame with a body of 2 to 250 bytes, taken in SEEK, hands its body over. -/
theorem State.takeBytes_linkFrame {s : State} (h : s.rx = .reset) {kind tag : Byte} {payload : List Byte}
    (hlength : payload.length ≤ 248) :
    (linkFrame (kind :: tag :: payload)).foldl State.takeByte s = { s with
      inbound := if s.inbound.length < 4 then s.inbound ++ [⟨kind, tag, payload⟩] else s.inbound } := by
  rw [linkFrame_eq]
  generalize hhi : (BitVec.ofNat 8 ((kind :: tag :: payload).length / 256) : Byte) = hi
  generalize hlo : (BitVec.ofNat 8 (kind :: tag :: payload).length : Byte) = lo
  have hbody : (kind :: tag :: payload).length = payload.length + 2 := rfl
  have hnumber : hi.toNat * 256 + lo.toNat = (kind :: tag :: payload).length := by
    rw [← hhi, ← hlo, BitVec.toNat_ofNat, BitVec.toNat_ofNat]
    omega
  generalize hcheck : linkCheck (hi :: lo :: kind :: tag :: payload) = check
  have hright : (linkCheck (hi :: lo :: kind :: tag :: payload)).toNat
      = (BitVec.ofNat 8 (check.toNat / 256)).toNat * 256 + (BitVec.ofNat 8 check.toNat).toNat := by
    have hbound := check.isLt
    rw [hcheck, BitVec.toNat_ofNat, BitVec.toNat_ofNat]
    omega
  have hcovered := State.takeBytes_covered h hnumber (by omega)
  have hsplit : ∀ check : List Byte, (0xD5 :: hi :: lo :: ((kind :: tag :: payload) ++ check))
      = (0xD5 :: hi :: lo :: kind :: tag :: payload) ++ check := fun _ => rfl
  have hfirst := State.takeByte_firstCheck (s := { s with
    rx := ⟨.check, 0xD5 :: hi :: lo :: kind :: tag :: payload, (kind :: tag :: payload).length, some s.timebase⟩ }) rfl
    (by simp only [List.length_cons]; omega) (BitVec.ofNat 8 (check.toNat / 256))
  rw [be_two, hsplit, List.foldl_append, hcovered, List.foldl_cons, List.foldl_cons, List.foldl_nil, hfirst,
    State.takeByte_lastCheck rfl hright, ← Receiver.reset, ← h]

/-- Settles O10: the bytes of a frame one after another, and the layout and the check as the model computes them. -/
theorem framesAreReceived : Obligations.FramesAreReceived := by
  refine ⟨fun s kind tag payload hlegal hseek hlength => ?_, ⟨rfl, linkCheck_append, by decide +kernel⟩, fun body => ?_,
    by decide +kernel,
    fun n v => ⟨rfl, be_succ n v⟩⟩
  · rw [exec_frameReceived, State.takeBytes_linkFrame (Receiver.eq_reset hlegal hseek) hlength]
  · intro hi lo check
    rw [linkFrame_eq, check_bytes]

end Sys2Proof.Machine
end

section
/-! The receiver (10): R186, a discarded frame's bytes taken again (O11). -/

namespace Sys2Proof.Machine

/-! ### Taking bytes without a bound (R186, log 23) -/

/-- A bound of the model's recursion that taking `bs` never uses up: each discard brings the bytes to come and the bytes held
down together. -/
def Receiver.enough (r : Receiver) (bs : List Byte) : Nat :=
  (r.buffer.length + bs.length) * (r.buffer.length + bs.length) + bs.length

/-- The receiver after bytes taken one after another, and the bodies of the valid frames among them. -/
def Receiver.takeAll (r : Receiver) (bs : List Byte) : Receiver × List (List Byte) := Receiver.takeBytes (r.enough bs) r bs

theorem Receiver.takeBytes_eq_takeAll {r : Receiver} (h : r.shaped) {bs : List Byte} {n : Nat} (hn : r.enough bs ≤ n) :
    Receiver.takeBytes n r bs = r.takeAll bs :=
  Receiver.takeBytes_stable hn h bs (Nat.le_refl _)

theorem Receiver.takeAll_nil (r : Receiver) : r.takeAll [] = (r, []) := by
  unfold Receiver.takeAll
  cases r.enough [] <;> rfl

theorem Receiver.enough_lt_of_length_le {r r' : Receiver} {bs : List Byte} (b : Byte)
    (h : r'.buffer.length ≤ r.buffer.length + 1) : r'.enough bs < r.enough (b :: bs) := by
  have hsum : r'.buffer.length + bs.length ≤ r.buffer.length + (b :: bs).length := by
    rw [List.length_cons]
    omega
  have hsquare := Nat.mul_le_mul hsum hsum
  unfold Receiver.enough
  rw [List.length_cons] at hsquare ⊢
  omega

theorem Receiver.enough_reset_lt {r : Receiver} {stored bs : List Byte} (b : Byte) (h : stored.length = r.buffer.length) :
    Receiver.reset.enough (stored ++ bs) < r.enough (b :: bs) := by
  have hreset : Receiver.reset.buffer.length = 0 := rfl
  have hsum : r.buffer.length + (b :: bs).length = (r.buffer.length + bs.length) + 1 := by
    rw [List.length_cons]
    omega
  unfold Receiver.enough
  rw [hreset, hsum, List.length_append, h, Nat.zero_add, Nat.mul_add_one, Nat.add_one_mul, List.length_cons]
  omega

section
variable {r : Receiver} (h : r.shaped) (b : Byte) (bs : List Byte)
include h

theorem Receiver.takeAll_step : r.takeAll (b :: bs) = match r.take b with
    | .stay r' => r'.takeAll bs
    | .frame body => ((Receiver.reset.takeAll bs).1, body :: (Receiver.reset.takeAll bs).2)
    | .discard stored => Receiver.reset.takeAll (stored ++ bs) := by
  have hunfold := Receiver.takeBytes_eq_takeAll h (Nat.le_succ (r.enough (b :: bs)))
  rw [← hunfold, Receiver.takeBytes]
  rcases Receiver.take_shaped h b with ⟨r', e, hshaped, hlength⟩ | ⟨body, e, -⟩ | ⟨stored, e, hlength⟩
  · rw [e]
    exact Receiver.takeBytes_eq_takeAll hshaped (Receiver.enough_lt_of_length_le b hlength).le
  · have hreset : Receiver.reset.enough bs ≤ r.enough (b :: bs) :=
      (Receiver.enough_lt_of_length_le b (Nat.zero_le _)).le
    simp only [e, Receiver.takeBytes_eq_takeAll Receiver.shaped_reset hreset]
  · rw [e]
    exact Receiver.takeBytes_eq_takeAll Receiver.shaped_reset (Receiver.enough_reset_lt b hlength).le

end

theorem Receiver.takeAll_shaped {r : Receiver} (h : r.shaped) (bs : List Byte) : (r.takeAll bs).1.shaped :=
  (Receiver.takeBytes_shaped _ h bs).1

/-- R185: bytes are taken one after another. -/
theorem Receiver.takeAll_append (bs : List Byte) : ∀ {n : Nat} {r : Receiver} {front : List Byte}, r.shaped →
    r.enough front < n → r.takeAll (front ++ bs)
      = (((r.takeAll front).1.takeAll bs).1, (r.takeAll front).2 ++ ((r.takeAll front).1.takeAll bs).2) := by
  intro n
  induction n with
  | zero => exact fun _ hn => absurd hn (Nat.not_lt_zero _)
  | succ n ih =>
    intro r front h hn
    cases front with
    | nil => simp [Receiver.takeAll_nil]
    | cons b front =>
      rw [List.cons_append, Receiver.takeAll_step h, Receiver.takeAll_step h]
      rcases Receiver.take_shaped h b with ⟨r', e, hshaped, hlength⟩ | ⟨body, e, -⟩ | ⟨stored, e, hlength⟩
      · simp only [e]
        exact ih hshaped (by have := Receiver.enough_lt_of_length_le (bs := front) b hlength; omega)
      · have hreset : Receiver.reset.enough front < n := by
          have := Receiver.enough_lt_of_length_le (r := r) (r' := .reset) (bs := front) b (Nat.zero_le _)
          omega
        simp only [e, ih Receiver.shaped_reset hreset, List.cons_append]
      · have hreset : Receiver.reset.enough (stored ++ front) < n := by
          have := Receiver.enough_reset_lt (bs := front) b hlength
          omega
        simp only [e, ← List.append_assoc, ih Receiver.shaped_reset hreset]

/-! ### The gap timer decides nothing about the bytes (R187) -/

/-- The receiver with another gap timer. -/
def Receiver.gapped (r : Receiver) (gap : Option Time) : Receiver := { r with gapTimer := gap }

def RxOutcome.gapped (gap : Option Time) : RxOutcome → RxOutcome
  | .stay r => .stay (r.gapped gap)
  | .frame body => .frame body
  | .discard stored => .discard stored

theorem Receiver.take_gapped (r : Receiver) (gap : Option Time) (b : Byte) :
    (r.gapped gap).take b = (r.take b).gapped gap := by
  obtain ⟨mode, buffer, length, g⟩ := r
  cases mode
  case seek =>
    simp only [Receiver.take, Receiver.gapped]
    rw [apply_ite (RxOutcome.gapped gap)]
    rfl
  case length =>
    show Receiver.takeLength _ b = (Receiver.takeLength _ b).gapped gap
    rw [Receiver.takeLength, Receiver.takeLength, apply_ite (RxOutcome.gapped gap), apply_ite (RxOutcome.gapped gap)]
    rfl
  case body =>
    show Receiver.takeBody _ b = (Receiver.takeBody _ b).gapped gap
    rw [Receiver.takeBody, Receiver.takeBody, apply_ite (RxOutcome.gapped gap)]
    rfl
  case check =>
    show Receiver.takeCheck _ b = (Receiver.takeCheck _ b).gapped gap
    rw [Receiver.takeCheck, Receiver.takeCheck, apply_ite (RxOutcome.gapped gap), apply_ite (RxOutcome.gapped gap)]
    rfl

theorem Receiver.takeBytes_gapped (gap : Option Time) : ∀ (n : Nat) (r : Receiver) (bs : List Byte),
    (∃ g, (Receiver.takeBytes n (r.gapped gap) bs).1 = (Receiver.takeBytes n r bs).1.gapped g)
      ∧ (Receiver.takeBytes n (r.gapped gap) bs).2 = (Receiver.takeBytes n r bs).2 := by
  intro n
  induction n with
  | zero => exact fun r bs => ⟨⟨gap, rfl⟩, rfl⟩
  | succ n ih =>
    intro r bs
    cases bs with
    | nil => exact ⟨⟨gap, rfl⟩, rfl⟩
    | cons b bs =>
      simp only [Receiver.takeBytes, Receiver.take_gapped]
      cases r.take b with
      | stay r' => exact ih r' bs
      | frame body => exact ⟨⟨_, rfl⟩, rfl⟩
      | discard stored => exact ⟨⟨_, rfl⟩, rfl⟩

theorem Receiver.takeAll_timed (r : Receiver) (now : Time) (bs : List Byte) :
    ((r.timed now).takeAll bs).1.timed now = (r.takeAll bs).1.timed now
      ∧ ((r.timed now).takeAll bs).2 = (r.takeAll bs).2 := by
  obtain ⟨⟨g, hg⟩, hbodies⟩ := Receiver.takeBytes_gapped (if r.mode = .seek then none else some now) (r.enough bs) r bs
  refine ⟨?_, hbodies⟩
  exact (congrArg (fun x => Receiver.timed x now) hg).trans rfl

/-! ### Bytes at the part (R185 to R188) -/

theorem State.takeByte_eq {s : State} (h : s.rx.shaped) (b : Byte) : s.takeByte b = { s with
    rx := (s.rx.takeAll [b]).1.timed s.timebase
    inbound := (s.rx.takeAll [b]).2.foldl enqueue s.inbound } := by
  have hbound : s.rx.enough [b] ≤ s.rx.bound := by
    unfold Receiver.enough Receiver.bound
    rw [List.length_singleton]
    nlinarith
  rw [State.takeByte, Receiver.takeBytes_eq_takeAll h hbound]
  rfl

/-- R185 to R188: what a run of bytes does to a part whose gap timer runs as R187 says. -/
theorem State.takeBytes_eq (bs : List Byte) : ∀ {s : State}, s.rx.shaped → s.rx.timed s.timebase = s.rx →
    bs.foldl State.takeByte s = { s with
      rx := (s.rx.takeAll bs).1.timed s.timebase
      inbound := (s.rx.takeAll bs).2.foldl enqueue s.inbound } := by
  induction bs with
  | nil =>
    intro s _ htimed
    rw [List.foldl_nil, Receiver.takeAll_nil, htimed]
    rfl
  | cons b bs ih =>
    intro s h _
    have hshaped : ((s.rx.takeAll [b]).1.timed s.timebase).shaped := Receiver.takeAll_shaped h [b]
    have hstep := State.takeByte_eq h b
    have hrest := ih (s := s.takeByte b) (by rw [hstep]; exact hshaped) (by rw [hstep]; rfl)
    obtain ⟨hrx, hbodies⟩ := Receiver.takeAll_timed (s.rx.takeAll [b]).1 s.timebase bs
    have hwhole := Receiver.takeAll_append bs h (Nat.lt_succ_self (s.rx.enough [b]))
    rw [List.foldl_cons, hrest, hstep]
    dsimp only
    rw [hrx, hbodies, ← List.foldl_append]
    rw [List.singleton_append] at hwhole
    rw [hwhole]

/-- R186: a byte at which the frame is discarded leaves the part as the bytes stored leave it from SEEK. -/
theorem State.takeByte_discard {s : State} (h : s.rx.shaped) {b : Byte} {stored : List Byte}
    (hdiscard : s.rx.take b = .discard stored) :
    s.takeByte b = stored.foldl State.takeByte { s with rx := .reset } := by
  have hall : s.rx.takeAll [b] = Receiver.reset.takeAll stored := by
    rw [Receiver.takeAll_step h, hdiscard]
    simp
  rw [State.takeByte_eq h, hall, State.takeBytes_eq stored (s := { s with rx := .reset }) Receiver.shaped_reset rfl]

/-! ### The discards (R186) -/

theorem Receiver.take_badLength {r : Receiver} {b hi : Byte} (hm : r.mode = .length) (hbuffer : r.buffer = [0xD5, hi])
    (hbad : ¬ (2 ≤ hi.toNat * 256 + b.toNat ∧ hi.toNat * 256 + b.toNat ≤ 250)) :
    r.take b = .discard (r.buffer.drop 1 ++ [b]) := by
  have hlength : readBE (([0xD5, hi] : List Byte).tail ++ [b]) = hi.toNat * 256 + b.toNat := readBE_pair hi b
  rw [Receiver.take, hm]
  show Receiver.takeLength _ b = _
  rw [Receiver.takeLength, hbuffer, if_neg (by simp), hlength, if_neg hbad, List.drop_one]

theorem Receiver.take_badCheck {r : Receiver} {b : Byte} (hm : r.mode = .check) (hbuffer : r.buffer.length = 4 + r.length)
    (hbad : readBE ((r.buffer ++ [b]).drop (3 + r.length)) ≠ (linkCheck ((r.buffer.drop 1).take (2 + r.length))).toNat) :
    r.take b = .discard (r.buffer.drop 1 ++ [b]) := by
  have hwhole : (r.buffer ++ [b]).length = 5 + r.length := by
    rw [List.length_append, hbuffer, List.length_singleton]
    omega
  have hcovered : (r.buffer ++ [b]).tail.take (2 + r.length) = (r.buffer.drop 1).take (2 + r.length) := by
    rw [← List.drop_one, List.drop_append_of_le_length (by omega), List.take_append_of_le_length (by simp; omega)]
  have hinvalid : frameValid (r.buffer ++ [b]) = false := by
    rw [frameValid, hwhole, show 5 + r.length - 2 = 3 + r.length by omega, show 5 + r.length - 3 = 2 + r.length by omega,
      hcovered]
    exact decide_eq_false hbad
  rw [Receiver.take, hm]
  show Receiver.takeCheck _ b = _
  rw [Receiver.takeCheck, if_neg (by omega), hinvalid, List.drop_one]
  rfl

/-- Settles O11: both discards hand back the bytes stored, which are then taken one after another from SEEK. -/
theorem badFramesTakenAgain : Obligations.BadFramesTakenAgain := by
  refine ⟨fun s b hlegal hbad => ?_, fun r b n h hn => ?_⟩
  · have hdiscard : s.rx.take b = .discard (s.rx.buffer.drop 1 ++ [b]) := by
      rcases hbad with ⟨hi, hm, hbuffer, hbad⟩ | ⟨hm, hbuffer, hbad⟩
      · exact Receiver.take_badLength hm hbuffer hbad
      · exact Receiver.take_badCheck hm hbuffer hbad
    rw [exec_frameReceived]
    exact congrArg Host.Outcome.next (State.takeByte_discard hlegal.1 hdiscard)
  · refine Receiver.takeBytes_stable hn h [b] ?_
    unfold Receiver.bound
    rw [List.length_singleton]
    nlinarith

end Sys2Proof.Machine
end

section
/-! RESET of scope STREAMS (R42, R67, R183, R199): the streams' records, the stops' effects and the notices (O5). -/

namespace Sys2Proof.Machine

/-! ### An extraction stop as its changes, followed by its raises (R64) -/

/-- Raises read and write nothing of the streams, the map and the Channel Table. -/
theorem State.raiseAll_set (s : State) (rs : List Raise) (syn : PerStream Syn) (trk : PerStream Tracker) (map : List MapEntry)
    (stage : PerStream EditStage) (channels : Vector (Option Channel) 128) :
    ({ s.raiseAll rs with syn := syn, trk := trk, map := map, stage := stage, channels := channels } : State)
      = State.raiseAll { s with syn := syn, trk := trk, map := map, stage := stage, channels := channels } rs := by
  have hset := State.raiseAll_of_alike (u := s) (rs := rs)
    (s := { s with syn := syn, trk := trk, map := map, stage := stage, channels := channels }) ⟨rfl, rfl, rfl, rfl, rfl⟩
  rw [hset]
  conv_lhs => rw [State.raiseAll_eq]

/-- The map after a stop: a pending commit is applied. -/
def State.settledMap (s : State) (i : StreamId) : List MapEntry :=
  if (s.stage.get i).pending then applyEdits i s.map (s.stage.get i).edits else s.map

/-- A channel's record after a stop of its stream. -/
def State.stoppedChannel (s : State) (i : StreamId) (why : StaleReason) (c : ChannelId) (ch : Channel) : Channel :=
  if (s.stage.get i).pending then (ch.enterStale why).setWidth (mapWidth (s.settledMap i) c) else ch.enterStale why

/-- R64, R88, R112: the part after a stop, before its raises. -/
def State.stopped (s : State) (i : StreamId) (why : StaleReason) : State :=
  { s with
    trk := s.trk.set i { s.trk.get i with assembly := [], staging := [] }
    map := s.settledMap i
    stage := if (s.stage.get i).pending then s.stage.set i .reset else s.stage
    channels := Vector.ofFn fun c : ChannelId => (s.channel c).map fun ch =>
      if ch.config.stream = i then s.stoppedChannel i why c ch else ch }

/-- R64, R88, R112: the raises of a stop. -/
def State.stopRaises (s : State) (i : StreamId) (why : StaleReason) : List Raise :=
  s.staleRaises i why ++ if (s.stage.get i).pending then [s.mapApplied i] else []

theorem State.extractionStop_eq (s : State) (i : StreamId) (why : StaleReason) :
    s.extractionStop i why = (s.stopped i why).raiseAll (s.stopRaises i why) := by
  rw [State.extractionStop_raises]
  unfold State.stopped State.stopRaises State.stoppedChannel State.settledMap
  cases (s.stage.get i).pending with
  | false =>
    simp only [Bool.false_eq_true, if_false, List.append_nil]
    rfl
  | true =>
    simp only [if_true]
    rw [← State.staled_applyCommit_channels]
    rfl

/-- What a stop reads of a part: its raises leave it. -/
theorem State.extractionStop_raiseAll (s : State) (rs : List Raise) (i : StreamId) (why : StaleReason) :
    (s.raiseAll rs).extractionStop i why = (s.stopped i why).raiseAll (rs ++ s.stopRaises i why) := by
  have hraises : (s.raiseAll rs).stopRaises i why = s.stopRaises i why := by
    simp only [State.stopRaises, State.staleRaises, State.mapApplied, State.channel, State.applyCommit_map,
      State.raiseAll_channels, State.raiseAll_stage, State.raiseAll_map]
  have hstopped : (s.raiseAll rs).stopped i why = (s.stopped i why).raiseAll rs := by
    refine Eq.trans ?_ (s.raiseAll_set rs (s.stopped i why).syn (s.stopped i why).trk (s.stopped i why).map
      (s.stopped i why).stage (s.stopped i why).channels)
    simp only [State.stopped, State.stoppedChannel, State.settledMap, State.channel, State.raiseAll_channels,
      State.raiseAll_stage, State.raiseAll_map, State.raiseAll_trk, State.raiseAll_syn]
  rw [State.extractionStop_eq, hraises, hstopped, State.raiseAll_append]

/-- R36 step 1: a stream's records as a disarm sets them. -/
def State.turnedOff (s : State) (i : StreamId) (why : SyncReason) : State :=
  { s with
    syn := s.syn.set i { (s.syn.get i).turnOff with lastReason := some why }
    trk := s.trk.set i (s.trk.get i).drop }

theorem State.disarm_changes (s : State) (i : StreamId) (why : SyncReason) :
    s.disarm i why = ((s.turnedOff i why).stopped i .disarmed).raiseAll
      (.syncState i ⟨.off, .strict, .noMajor, none, .normal, why⟩ :: (s.turnedOff i why).stopRaises i .disarmed) := by
  rw [State.disarm_eq]
  exact State.extractionStop_raiseAll (s.turnedOff i why) _ i .disarmed

theorem State.setRecords_raiseAll (s : State) (rs : List Raise) (i : StreamId) (y : Syn) (t : Tracker) :
    ((s.raiseAll rs).setSyn i y).setTrk i t = ((s.setSyn i y).setTrk i t).raiseAll rs := by
  refine Eq.trans ?_ (s.raiseAll_set rs (s.syn.set i y) (s.trk.set i t) s.map s.stage s.channels)
  rw [← s.raiseAll_map rs, ← s.raiseAll_stage rs, ← s.raiseAll_channels rs, ← s.raiseAll_syn rs, ← s.raiseAll_trk rs]
  rfl

/-! ### The reset of one stream (R42, R67) -/

/-- R42: a stream that is not OFF is stopped by the reset. -/
def State.resetStops (s : State) (i : StreamId) : Bool := decide ((s.syn.get i).mode ≠ .off)

/-- R42: the synchronizer's record after a reset of its stream. -/
def Syn.streamsReset (y : Syn) : Syn :=
  (if y.mode = .off then y else { y.turnOff with lastReason := some .reset }).afterStreamsReset

/-- R42, R67: the part after a reset of one stream, before its raises. -/
def State.resetChanges (s : State) (i : StreamId) : State :=
  { s with
    syn := s.syn.set i (s.syn.get i).streamsReset
    trk := s.trk.set i .reset
    map := if s.resetStops i then s.settledMap i else s.map
    stage := if s.resetStops i && (s.stage.get i).pending then s.stage.set i .reset else s.stage
    channels := Vector.ofFn fun c : ChannelId => (s.channel c).map fun ch =>
      if s.resetStops i = true ∧ ch.config.stream = i then s.stoppedChannel i .disarmed c ch else ch }

/-- R42, R39: the raises of a reset of one stream. -/
def State.resetRaises (s : State) (i : StreamId) : List Raise :=
  if s.resetStops i then .syncState i ⟨.off, .strict, .noMajor, none, .normal, .reset⟩ :: s.stopRaises i .disarmed else []

theorem State.resetStream_eq (s : State) (i : StreamId) :
    s.resetStream i = (s.resetChanges i).raiseAll (s.resetRaises i) := by
  by_cases hoff : (s.syn.get i).mode = .off
  · have hstops : s.resetStops i = false := decide_eq_false (not_not.2 hoff)
    have hchannels : (Vector.ofFn fun c : ChannelId => (s.channel c).map fun ch : Channel => ch) = s.channels :=
      Vector.ext fun n hn => by
        rw [Vector.getElem_ofFn, Option.map_id']
        rfl
    have hsyn : (s.syn.get i).streamsReset = (s.syn.get i).afterStreamsReset := by rw [Syn.streamsReset, if_pos hoff]
    unfold State.resetChanges State.resetRaises
    simp only [State.resetStream, hoff, if_true, hstops, Bool.false_and, Bool.false_eq_true, if_false, false_and, hchannels,
      hsyn, State.raiseAll_nil]
    rfl
  · have hstops : s.resetStops i = true := decide_eq_true hoff
    have hsyn : (s.syn.get i).streamsReset
        = ({ (s.syn.get i).turnOff with lastReason := some .reset } : Syn).afterStreamsReset := by
      rw [Syn.streamsReset, if_neg hoff]
    have hreset : s.resetStream i
        = ((s.disarm i .reset).setSyn i ((s.disarm i .reset).syn.get i).afterStreamsReset).setTrk i .reset := by
      simp only [State.resetStream, hoff, if_false]
    have hchanges : (((s.turnedOff i .reset).stopped i .disarmed).setSyn i
        (({ (s.syn.get i).turnOff with lastReason := some .reset } : Syn).afterStreamsReset)).setTrk i .reset
        = s.resetChanges i := by
      unfold State.resetChanges
      simp only [hstops, Bool.true_and, if_true, true_and, hsyn]
      unfold State.stopped State.turnedOff State.setSyn State.setTrk
      simp only [PerStream.set_set, PerStream.get_set]
      rfl
    rw [hreset, State.disarm_changes, State.setRecords_raiseAll, State.raiseAll_syn, State.resetRaises, if_pos hstops, ← hchanges]
    have hget : (((s.turnedOff i .reset).stopped i .disarmed).syn.get i)
        = { (s.syn.get i).turnOff with lastReason := some .reset } := PerStream.get_set _ _ _
    rw [hget]
    rfl

/-! ### The reset of both streams (R42, R183) -/

theorem State.resetStream_raiseAll (s : State) (rs : List Raise) (i : StreamId) :
    (s.raiseAll rs).resetStream i = (s.resetChanges i).raiseAll (rs ++ s.resetRaises i) := by
  have hraises : (s.raiseAll rs).resetRaises i = s.resetRaises i := by
    simp only [State.resetRaises, State.resetStops, State.stopRaises, State.staleRaises, State.mapApplied, State.channel,
      State.applyCommit_map, State.raiseAll_channels, State.raiseAll_stage, State.raiseAll_map, State.raiseAll_syn]
  have hchanges : (s.raiseAll rs).resetChanges i = (s.resetChanges i).raiseAll rs := by
    refine Eq.trans ?_ (s.raiseAll_set rs (s.resetChanges i).syn (s.resetChanges i).trk (s.resetChanges i).map
      (s.resetChanges i).stage (s.resetChanges i).channels)
    simp only [State.resetChanges, State.resetStops, State.stoppedChannel, State.settledMap, State.channel,
      State.raiseAll_channels, State.raiseAll_stage, State.raiseAll_map, State.raiseAll_trk, State.raiseAll_syn]
    rfl
  rw [State.resetStream_eq, hraises, hchanges, State.raiseAll_append]

/-- R42: the part after both streams' resets, before their raises. -/
def State.bothReset (s : State) : State := (s.resetChanges .s0).resetChanges .s1

theorem State.resetStreams_eq (s : State) : s.resetStreams
    = (s.bothReset.raiseAll (s.resetRaises .s0 ++ (s.resetChanges .s0).resetRaises .s1)).sendInside := by
  rw [State.resetStreams, State.resetStream_eq s .s0, State.resetStream_raiseAll]
  rfl

/-- R42: whether a stream's reset applies its staged edits. -/
def State.resetApplies (s : State) (i : StreamId) : Bool := s.resetStops i && (s.stage.get i).pending

/-- R42: the map as a stream's reset leaves it. -/
def State.resetMap (s : State) (i : StreamId) (m : List MapEntry) : List MapEntry :=
  if s.resetApplies i then applyEdits i m (s.stage.get i).edits else m

/-- R42: the map after the resets up to a stream's own. -/
def State.resetMapUpTo (s : State) : StreamId → List MapEntry
  | .s0 => s.resetMap .s0 s.map
  | .s1 => s.resetMap .s1 (s.resetMap .s0 s.map)

theorem State.resetChanges_map (s : State) (i : StreamId) : (s.resetChanges i).map = s.resetMap i s.map := by
  unfold State.resetMap State.resetApplies
  show (if s.resetStops i then s.settledMap i else s.map) = _
  unfold State.settledMap
  cases s.resetStops i <;> rfl

theorem State.resetChanges_stage (s : State) (i : StreamId) :
    (s.resetChanges i).stage = if s.resetApplies i then s.stage.set i .reset else s.stage := rfl

theorem State.resetChanges_stage_ne (s : State) {i j : StreamId} (h : j ≠ i) :
    (s.resetChanges i).stage.get j = s.stage.get j := by
  rw [State.resetChanges_stage]
  split
  · exact PerStream.get_set_ne _ h _
  · rfl

theorem State.resetChanges_syn_ne (s : State) {i j : StreamId} (h : j ≠ i) : (s.resetChanges i).syn.get j = s.syn.get j :=
  PerStream.get_set_ne _ h _

theorem State.resetChanges_resetStops_ne (s : State) {i j : StreamId} (h : j ≠ i) :
    (s.resetChanges i).resetStops j = s.resetStops j := by
  unfold State.resetStops
  rw [State.resetChanges_syn_ne s h]

theorem State.resetChanges_resetApplies_ne (s : State) {i j : StreamId} (h : j ≠ i) :
    (s.resetChanges i).resetApplies j = s.resetApplies j := by
  unfold State.resetApplies
  rw [State.resetChanges_resetStops_ne s h, State.resetChanges_stage_ne s h]

/-- R42: a channel's record after a reset of its stream that stops it or not, and applies a commit or not. -/
def Channel.streamReset (stops pending : Bool) (w : Nat) (ch : Channel) : Channel :=
  if stops then if pending then (ch.enterStale .disarmed).setWidth w else ch.enterStale .disarmed else ch

theorem Channel.streamReset_config (stops pending : Bool) (w : Nat) (ch : Channel) :
    (ch.streamReset stops pending w).config = ch.config := by
  unfold Channel.streamReset
  cases stops <;> cases pending <;> simp [Channel.setWidth_config, Channel.enterStale_config]

theorem State.resetChanges_channel (s : State) (i : StreamId) (c : ChannelId) :
    (s.resetChanges i).channel c = (s.channel c).map fun ch =>
      if ch.config.stream = i then
        ch.streamReset (s.resetStops i) (s.stage.get i).pending (mapWidth (s.resetMap i s.map) c) else ch := by
  have hget : (s.resetChanges i).channel c = (s.channel c).map fun ch =>
      if s.resetStops i = true ∧ ch.config.stream = i then s.stoppedChannel i .disarmed c ch else ch :=
    Vector.getElem_ofFn c.isLt
  rw [hget]
  refine congrArg (Option.map · (s.channel c)) (funext fun ch => ?_)
  unfold Channel.streamReset State.resetMap State.resetApplies State.stoppedChannel State.settledMap
  cases s.resetStops i <;> cases (s.stage.get i).pending <;> simp

/-- R42: a stream's reset touches no channel of the other stream. -/
theorem State.resetChanges_channel_ne (s : State) {i : StreamId} {c : ChannelId} {ch : Channel} (hc : s.channel c = some ch)
    (h : ch.config.stream ≠ i) : (s.resetChanges i).channel c = some ch := by
  rw [State.resetChanges_channel, hc, Option.map_some, if_neg h]

theorem State.bothReset_channel (s : State) (c : ChannelId) : s.bothReset.channel c = (s.channel c).map fun ch =>
    ch.streamReset (s.resetStops ch.config.stream) (s.stage.get ch.config.stream).pending
      (mapWidth (s.resetMapUpTo ch.config.stream) c) := by
  have hne : StreamId.s1 ≠ .s0 := nofun
  rw [State.bothReset, State.resetChanges_channel]
  cases hc : s.channel c with
  | none =>
    rw [State.resetChanges_channel, hc]
    rfl
  | some ch =>
    cases hstream : ch.config.stream with
    | s0 =>
      rw [State.resetChanges_channel, hc, Option.map_some, Option.map_some, Option.map_some, if_pos hstream,
        Channel.streamReset_config, hstream, if_neg (nofun)]
      rfl
    | s1 =>
      have hother : (s.resetChanges .s0).channel c = some ch := s.resetChanges_channel_ne hc (by rw [hstream]; exact hne)
      have hmap : (s.resetChanges .s0).resetMap .s1 (s.resetChanges .s0).map = s.resetMapUpTo .s1 := by
        rw [State.resetChanges_map, State.resetMap, State.resetChanges_resetApplies_ne s hne, State.resetChanges_stage_ne s hne]
        rfl
      rw [hother, Option.map_some, Option.map_some, if_pos hstream, hmap, State.resetChanges_resetStops_ne s hne,
        State.resetChanges_stage_ne s hne, hstream]

theorem State.bothReset_map (s : State) : s.bothReset.map = s.resetMapUpTo .s1 := by
  have hne : StreamId.s1 ≠ .s0 := nofun
  rw [State.bothReset, State.resetChanges_map, State.resetChanges_map, State.resetMap, State.resetChanges_resetApplies_ne s hne,
    State.resetChanges_stage_ne s hne]
  rfl

theorem State.bothReset_stage (s : State) (i : StreamId) :
    s.bothReset.stage.get i = if s.resetApplies i then .reset else s.stage.get i := by
  have hset (u : State) (j : StreamId) : (u.resetChanges j).stage.get j = if u.resetApplies j then .reset else u.stage.get j := by
    rw [State.resetChanges_stage]
    split
    · exact PerStream.get_set _ _ _
    · rfl
  have hne : StreamId.s1 ≠ .s0 := nofun
  cases i with
  | s0 => rw [State.bothReset, State.resetChanges_stage_ne _ hne.symm, hset]
  | s1 => rw [State.bothReset, hset, State.resetChanges_resetApplies_ne s hne, State.resetChanges_stage_ne s hne]

theorem State.bothReset_syn (s : State) (i : StreamId) : s.bothReset.syn.get i = (s.syn.get i).streamsReset := by
  cases i with
  | s0 => exact rfl
  | s1 => exact rfl

theorem State.bothReset_trk (s : State) (i : StreamId) : s.bothReset.trk.get i = .reset := by
  cases i <;> rfl

/-! ### The raises of the reset (R39, R64, R88) -/

theorem State.resetChanges_staleRaises_ne (s : State) {i j : StreamId} (h : j ≠ i) (why : StaleReason) :
    (s.resetChanges i).staleRaises j why = s.staleRaises j why := by
  unfold State.staleRaises
  refine congrArg (List.flatMap · allChannels) (funext fun c => ?_)
  cases hc : s.channel c with
  | none =>
    rw [State.resetChanges_channel, hc]
    rfl
  | some ch =>
    by_cases hi : ch.config.stream = i
    · rw [State.resetChanges_channel, hc, Option.map_some, if_pos hi]
      simp only [Channel.streamReset_config, hi, if_neg h.symm]
    · rw [s.resetChanges_channel_ne hc hi]

theorem State.resetRaises_eq (s : State) (i : StreamId) : s.resetRaises i = if s.resetStops i then
      .syncState i ⟨.off, .strict, .noMajor, none, .normal, .reset⟩ :: (s.staleRaises i .disarmed
        ++ if s.resetApplies i then
          [.mapApplied i (s.stage.get i).edits.length (s.resetMap i s.map).length] else [])
    else [] := by
  unfold State.resetRaises State.stopRaises State.resetMap State.resetApplies State.mapApplied
  rw [State.applyCommit_map]
  cases s.resetStops i <;> cases (s.stage.get i).pending <;> rfl

theorem State.resetChanges_resetRaises (s : State) : (s.resetChanges .s0).resetRaises .s1 = if s.resetStops .s1 then
      .syncState .s1 ⟨.off, .strict, .noMajor, none, .normal, .reset⟩ :: (s.staleRaises .s1 .disarmed
        ++ if s.resetApplies .s1 then
          [.mapApplied .s1 (s.stage.get .s1).edits.length (s.resetMapUpTo .s1).length] else [])
    else [] := by
  have hne : StreamId.s1 ≠ .s0 := nofun
  have hmap : (s.resetChanges .s0).resetMap .s1 (s.resetChanges .s0).map = s.resetMapUpTo .s1 := by
    rw [State.resetChanges_map, State.resetMap, State.resetChanges_resetApplies_ne s hne, State.resetChanges_stage_ne s hne]
    rfl
  rw [State.resetRaises_eq, hmap, State.resetChanges_resetStops_ne s hne, State.resetChanges_resetApplies_ne s hne,
    State.resetChanges_stage_ne s hne, State.resetChanges_staleRaises_ne s hne]

end Sys2Proof.Machine
end

section
/-! RESET of scope STREAMS (R42, R67, R183, R199): the whole reset (O5). -/

namespace Sys2Proof.Machine

/-- R42: the record after a reset of its stream, field by field. -/
theorem Syn.streamsReset_eq (y : Syn) (stops : Bool) (h : stops = decide (y.mode ≠ .off)) : y.streamsReset =
    { y with
      mode := .off
      phase := if stops then .strict else y.phase
      armed := 0
      selected := if stops then none else y.selected
      polarity := if stops then .normal else y.polarity
      verifyCount := if stops then 0 else y.verifyCount
      missCount := if stops then 0 else y.missCount
      bitsToSync := if stops then 0 else y.bitsToSync
      windowTimer := if stops then none else y.windowTimer
      idleTimer := if stops then none else y.idleTimer
      bitsFlowing := if stops then false else y.bitsFlowing
      history := if stops then 0 else y.history
      fill := if stops then 0 else y.fill
      locksAcquired := 0
      framesProcessed := 0
      framesCoasted := 0
      checkFailures := 0
      lastReason := if stops then some .reset else y.lastReason } := by
  subst h
  by_cases hoff : y.mode = .off
  · simp [Syn.streamsReset, Syn.afterStreamsReset, Syn.zeroCounters, hoff]
  · simp [Syn.streamsReset, Syn.afterStreamsReset, Syn.zeroCounters, Syn.turnOff, hoff]

/-- R42, R86, R113: a channel's record after the reset of its stream, field by field. -/
theorem Channel.streamReset_eq (ch : Channel) (stops pending : Bool) (w : Nat) : ch.streamReset stops pending w =
    let width := if stops && pending then w else ch.width
    let goesStale := stops && decide (ch.data.reported = .current)
    let unsettles := goesStale || decide (ch.width ≠ width)
    { ch with
      width := width
      data := match ch.data with
        | .current r => if stops then .stale .disarmed r else .current r
        | d => d
      staleTimer := if goesStale then none else ch.staleTimer
      candidate := if unsettles then none else ch.candidate
      agree := if unsettles then 0 else ch.agree } := by
  obtain ⟨config, width, settings, data, nextSeq, candidate, agree, settled, limit, latches, staleTimer, queue⟩ := ch
  cases stops with
  | false => cases data <;> simp [Channel.streamReset]
  | true =>
    cases pending with
    | false => cases data <;> simp [Channel.streamReset, Channel.enterStale, ValueState.reported]
    | true =>
      by_cases hw : width = w
      · cases data <;> simp [Channel.streamReset, Channel.enterStale, ValueState.reported, Channel.setWidth_eq, hw]
      · cases data <;> simp [Channel.streamReset, Channel.enterStale, ValueState.reported, Channel.setWidth_eq, hw]

/-- R183: at most one notice goes between the reset's raises and its reply. -/
theorem State.sendInside_raised {s u : State} (h : s.alike u) : s.sendInside.notices = u.notices ∧ s.sendInside.tx = u.tx
    ∨ u.nextFrame = some .notice ∧ s.sendInside.notices = ({ u with draws := u.draws + 1 } : State).noticeSend.notices
      ∧ s.sendInside.tx = ({ u with draws := u.draws + 1 } : State).noticeSend.tx := by
  obtain ⟨hnotices, htx, -⟩ := State.sendInside_alike h
  rw [hnotices, htx]
  rcases u.sendInside_cases with ⟨-, hstays⟩ | ⟨hfree, hstays | hgoes⟩
  · exact .inl (by rw [hstays]; exact ⟨rfl, rfl⟩)
  · exact .inl (by rw [hstays]; exact ⟨rfl, rfl⟩)
  · exact .inr ⟨hfree, by rw [hgoes], by rw [hgoes]⟩

/-- A send before the reset's reply is possible only where a notice could be sent before the reset. -/
theorem State.nextFrame_raiseAll {s : State} {rs : List Raise} (h : (s.raiseAll rs).nextFrame = some .notice) :
    s.tx = none ∧ s.ready = none ∧ s.replies = [] ∧ 0 < s.notices.credits := by
  obtain ⟨htx, hready, hreplies, -, hcredits⟩ := (State.nextFrame_notice _).1 h
  by_cases hidle : s.tx = none ∧ s.notices.credits ≠ 0
  · exact ⟨hidle.1, by simpa using hready, by simpa using hreplies, Nat.pos_of_ne_zero hidle.2⟩
  · have hheld := s.raiseAll_held (rs := rs) ((not_and_or.1 hidle).elim .inl fun h => .inr (.inr (.inr (not_not.1 h))))
    rw [hheld] at htx hcredits
    have hkept : (rs.foldl NoticeUnit.take s.notices).credits = s.notices.credits := by
      clear hheld htx hcredits h hready hreplies hidle
      generalize s.notices = n
      induction rs generalizing n with
      | nil => rfl
      | cons r rs ih => rw [List.foldl_cons, ih, NoticeUnit.take_credits]
    exact absurd ⟨htx, (Nat.pos_iff_ne_zero.1 (hkept ▸ hcredits))⟩ hidle

theorem State.sendInside_mask (s : State) : s.sendInside.notices.mask = s.notices.mask := by
  refine State.sendInside_keeps (P := fun u => u.notices.mask = s.notices.mask) (fun _ _ h => h) (fun u h => ?_) rfl
  rcases u.noticeSend_cases with ⟨-, e⟩ | ⟨_, _, -, -, e⟩ <;> rw [e] <;> exact h

theorem State.raiseAll_mask (s : State) (rs : List Raise) : (s.raiseAll rs).notices.mask = s.notices.mask :=
  State.raiseAll_keeps (P := fun u => u.notices.mask = s.notices.mask) (fun _ _ h => (NoticeUnit.take_mask _ _).trans h)
    (fun u h => u.sendInside_mask.trans h) rfl rs

/-- R39, R64, R88: the raises of a stream's reset within the reset of both. -/
def State.resetNotices (s : State) (i : StreamId) : List Raise :=
  if s.resetStops i then
    .syncState i ⟨.off, .strict, .noMajor, none, .normal, .reset⟩ :: (s.staleRaises i .disarmed
      ++ if s.resetApplies i then [.mapApplied i (s.stage.get i).edits.length (s.resetMapUpTo i).length] else [])
  else []

/-- R42, R39: the raises of the reset, stream 0 first. -/
theorem State.bothReset_raises (s : State) : s.resetRaises .s0 ++ (s.resetChanges .s0).resetRaises .s1
    = s.resetNotices .s0 ++ s.resetNotices .s1 := by
  rw [State.resetChanges_resetRaises, State.resetRaises_eq]
  rfl

theorem exec_resetStreams {s : State} {tag : Byte} {rest : List Request} (h : s.fresh ⟨0x03, tag, [1]⟩ rest) :
    exec .resetStreams s = .next (({ s with inbound := rest } : State).resetStreams.answer ⟨0x03, tag, [1]⟩ (.ok [1])) :=
  congrArg Host.Outcome.next (State.takeRequest_fresh h rfl actResetStreams)

/-- The two streams' resets and their raises leave the rest of the part. -/
theorem State.bothReset_rest (s : State) : s.bothReset.profiles = s.profiles ∧ s.bothReset.rosters = s.rosters
    ∧ s.bothReset.poolFree = s.poolFree ∧ s.bothReset.timebase = s.timebase ∧ s.bothReset.linkRate = s.linkRate
    ∧ s.bothReset.rx = s.rx ∧ s.bothReset.ready = s.ready ∧ s.bothReset.inbound = s.inbound
    ∧ s.bothReset.replies = s.replies ∧ s.bothReset.cache = s.cache ∧ s.bothReset.pending = s.pending :=
  ⟨rfl, rfl, rfl, rfl, rfl, rfl, rfl, rfl, rfl, rfl, rfl⟩

/-- Settles O5: the reset is both streams' changes, then their raises, then a send that is free, then the reply. -/
theorem streamsReset : Obligations.StreamsReset := by
  intro s tag rest hfresh stops applies applied mapAfter width goesStale unsettles raises raised
  obtain ⟨v, hv⟩ : ∃ v : State, v = { s with inbound := rest } := ⟨_, rfl⟩
  have hmap (i : StreamId) : v.resetMapUpTo i = mapAfter i := by
    subst hv
    cases i <;> rfl
  have hraises (i : StreamId) : v.resetNotices i = raises i := by
    rw [State.resetNotices, State.staleRaises_eq, hmap, hv]
    rfl
  have hreset := v.resetStreams_eq
  rw [State.bothReset_raises, hraises, hraises] at hreset
  generalize hu : v.bothReset.raiseAll (raises .s0 ++ raises .s1) = u at hreset
  have hfields : u.syn = v.bothReset.syn ∧ u.trk = v.bothReset.trk ∧ u.map = v.bothReset.map ∧ u.stage = v.bothReset.stage
      ∧ u.channels = v.bothReset.channels := by
    rw [← hu]
    simp
  obtain ⟨hsyn, htrk, humap, hstage, hchannels⟩ := hfields
  have halike : u.alike raised := by
    have hsame : v.bothReset.alike s := by
      subst hv
      exact ⟨rfl, rfl, rfl, rfl, rfl⟩
    rw [← hu]
    exact State.raiseAll_alike hsame _
  have hexec := exec_resetStreams hfresh
  rw [← hv, hreset] at hexec
  refine ⟨_, hexec, fun i => ?_, fun i => ?_, ?_, fun i => ?_, fun c => ?_, ?_, ?_, ?_⟩
  · rw [State.answer_syn, State.sendInside_syn, hsyn, State.bothReset_syn, hv]
    exact Syn.streamsReset_eq _ (stops i) rfl
  · rw [State.answer_trk, State.sendInside_trk, htrk, State.bothReset_trk]
    exact Tracker.reset_atPowerOn
  · rw [State.answer_map, State.sendInside_map, humap, State.bothReset_map, hmap]
  · rw [State.answer_stage, State.sendInside_stage, hstage, State.bothReset_stage, hv]
    rfl
  · have hsame : (u.sendInside.answer ⟨0x03, tag, [1]⟩ (.ok [1])).channels = v.bothReset.channels := by
      rw [State.answer_channels, State.sendInside_channels, hchannels]
    rw [State.channel_congr hsame, State.bothReset_channel, hv]
    refine congrArg (Option.map · (s.channel c)) (funext fun ch => ?_)
    rw [← hv, hmap, Channel.streamReset_eq, hv]
    rfl
  · rcases State.sendInside_raised halike with hstays | ⟨hfree, hnotices, htx⟩
    · exact .inl hstays
    · obtain ⟨hidle, hready, hreplies, hcredits⟩ := State.nextFrame_raiseAll hfree
      exact .inr ⟨hidle, hready, hreplies, hcredits, _, rfl, hnotices, htx⟩
  · rw [State.answer_notices, State.sendInside_mask, halike.1]
    exact State.raiseAll_mask s _
  · have hrest : u.profiles = s.profiles ∧ u.rosters = s.rosters ∧ u.poolFree = s.poolFree ∧ u.timebase = s.timebase
        ∧ u.linkRate = s.linkRate ∧ u.rx = s.rx ∧ u.ready = s.ready ∧ u.inbound = rest ∧ u.replies = s.replies
        ∧ u.cache = s.cache ∧ u.pending = s.pending := by
      rw [← hu]
      simpa [hv] using v.bothReset_rest
    obtain ⟨hprofiles, hrosters, hpool, htime, hrate, hrx, hready, hinbound, hreplies, hcache, hpending⟩ := hrest
    refine ⟨?_, ?_, ?_, ?_, ?_, ?_, ?_, ?_, ?_, ?_, ?_⟩
    all_goals simp [hprofiles, hrosters, hpool, htime, hrate, hrx, hready, hinbound, hreplies, hcache, hpending]
    all_goals rfl

end Sys2Proof.Machine
end

section
/-! Words and frames (03): R45, R60 and R62, a word's work, a frame's end and its releases; R147, the requests between them
(O33). -/

namespace Sys2Proof.Machine

/-! ### A completed word (R45) -/

/-- R49 to R53: the ID word leaves the place in the frame, and a lost major lock stops the extraction. -/
theorem Tracker.idWord_place (t : Tracker) (p : Profile) (read : Nat) :
    (t.idWord p read).1.wordPos = t.wordPos ∧ ((t.idWord p read).2 = .lost → (t.idWord p read).1.extracting = false) := by
  unfold Tracker.idWord
  cases t.major with
  | noMajor => exact ⟨rfl, nofun⟩
  | majorSearch =>
    dsimp only
    unfold Tracker.idSearch
    split <;> exact ⟨rfl, nofun⟩
  | majorLocked =>
    dsimp only
    unfold Tracker.idLocked
    split
    · exact ⟨rfl, nofun⟩
    · split
      · exact ⟨rfl, nofun⟩
      · exact ⟨rfl, fun _ => rfl⟩

/-- R53: only the loss of major lock, which ends the extraction, touches the map or a channel at the ID word. -/
theorem State.idTaken_extracting {s : State} {i : StreamId} {p : Profile} (h : ((s.idTaken i p).trk.get i).extracting = true) :
    (s.idTaken i p).map = s.map ∧ (s.idTaken i p).channels = s.channels ∧ (s.idTaken i p).stage = s.stage
      ∧ ((s.idTaken i p).trk.get i).wordPos = (s.trk.get i).wordPos := by
  unfold State.idTaken at h ⊢
  split
  · rename_i hid
    rw [if_pos hid] at h
    rcases hout : (s.trk.get i).idWord p (p.idRead (s.trk.get i).word) with ⟨t, outcome⟩
    obtain ⟨hpos, hlost⟩ := (s.trk.get i).idWord_place p (p.idRead (s.trk.get i).word)
    rw [hout] at hpos hlost
    cases outcome with
    | quiet =>
      rw [State.idHandling_quiet hout]
      exact ⟨rfl, rfl, rfl, (congrArg Tracker.wordPos (PerStream.get_set _ _ _)).trans hpos⟩
    | gained =>
      rw [State.idHandling_gained hout]
      refine ⟨State.raiseAll_map _ _, State.raiseAll_channels _ _, State.raiseAll_stage _ _, ?_⟩
      rw [State.raiseSync_trk, State.setTrk_trk, PerStream.get_set]
      exact hpos
    | lost =>
      rw [State.idHandling_lost hout, State.extractionStop_trk, PerStream.get_set, State.raiseSync_trk, State.setTrk_trk,
        PerStream.get_set] at h
      exact absurd ((hlost rfl).symm.trans h) Bool.false_ne_true
  · exact ⟨rfl, rfl, rfl, rfl⟩

/-- R55: the fragments of a word are taken with the fragment counts the channels were bound with. -/
theorem State.mapLookup_eq (s : State) (i : StreamId) (k : Slot) (p : Profile) : s.mapLookup i k p
    = s.setTrk i ((match (s.trk.get i).frameId with
        | some id => lookup s.map i k (s.trk.get i).wordPos id
        | none => []).foldl (fun (t : Tracker) (e : MapEntry) =>
          t.takeFragment ((s.channel e.channel).elim 0 fun ch => ch.config.fragments) (p.fragment (s.trk.get i).word e))
        (s.trk.get i)) := by
  have hcount (c : ChannelId) : s.fragmentCount c = (s.channel c).elim 0 fun ch => ch.config.fragments := by
    unfold State.fragmentCount
    cases s.channel c <;> rfl
  unfold State.mapLookup
  cases (s.trk.get i).frameId with
  | none =>
    show s = { s with trk := s.trk.set i (s.trk.get i) }
    rw [PerStream.set_get]
  | some id =>
    simp only [State.takeFragments, List.foldl_map, hcount]
    rfl

/-! ### The end of a minor frame (R60, R62) -/

theorem State.release_trk (s : State) (i : StreamId) (c : ChannelId) (raw : Sample) : (s.release i c raw).trk = s.trk := by
  unfold State.release
  split
  · rfl
  · split
    · exact State.raiseAll_trk _ _
    · rfl

theorem State.release_syn (s : State) (i : StreamId) (c : ChannelId) (raw : Sample) : (s.release i c raw).syn = s.syn := by
  unfold State.release
  split
  · rfl
  · split
    · exact State.raiseAll_syn _ _
    · rfl

/-- R15, R147: the releases leave the stream's records. -/
theorem State.releaseAll_records (i : StreamId) (t : Tracker) (g : List Staged) : ∀ s : State,
    (State.releaseAll i t s g).syn.get i = s.syn.get i ∧ (State.releaseAll i t s g).trk.get i = s.trk.get i := by
  induction g with
  | nil => exact fun s => ⟨rfl, rfl⟩
  | cons g rest ih =>
    intro s
    obtain ⟨hsyn, htrk⟩ := ih ((s.release i g.channel (t.sampleOf g)).requestsBetween i)
    obtain ⟨hsyn', htrk'⟩ := (s.release i g.channel (t.sampleOf g)).requestsBetween_records i
    rw [State.release_syn] at hsyn'
    rw [State.release_trk] at htrk'
    exact ⟨hsyn.trans hsyn', htrk.trans htrk'⟩

theorem State.releasedEnd_records (s : State) (i : StreamId) (p : Profile) :
    (s.releasedEnd i p).syn.get i = (s.ended i p).syn.get i
      ∧ (s.releasedEnd i p).trk.get i = ((s.trk.get i).judged p).endFrame := by
  have hended : (s.ended i p).trk.get i = ((s.trk.get i).judged p).endFrame := PerStream.get_set _ _ _
  unfold State.releasedEnd
  split
  · obtain ⟨hsyn, htrk⟩ := State.releaseAll_records i ((s.trk.get i).judged p) (s.trk.get i).staging (s.ended i p)
    exact ⟨hsyn, htrk.trans hended⟩
  · exact ⟨rfl, hended⟩

/-! ### The requests between two releases (R147, R189) -/

/-- R147: turns go on until their number is reached or none can be made. -/
theorem State.turns_end (i : StreamId) : ∀ (most : Nat) (s : State), ∃ n ≤ most,
    (∀ m < n, ((State.takeTurn i)^[m] s).TurnTo i ((State.takeTurn i)^[m + 1] s))
      ∧ (State.takeTurn i)^[n] s = (State.takeTurn i)^[most] s
      ∧ (n = most ∨ ¬ ∃ v, ((State.takeTurn i)^[n] s).TurnTo i v) := by
  intro most
  induction most with
  | zero => exact fun s => ⟨0, Nat.le_refl 0, nofun, rfl, .inl rfl⟩
  | succ most ih =>
    intro s
    cases hwaits : s.requestWaits i with
    | true =>
      obtain ⟨n, hn, hturns, hend, hlast⟩ := ih (s.takeTurn i)
      have hfirst : s.TurnTo i (s.takeTurn i) := State.turnTo_iff.2 ⟨hwaits, by rw [State.takeTurn, if_pos hwaits]⟩
      refine ⟨n + 1, Nat.succ_le_succ hn, fun m hm => ?_, hend, hlast.imp_left (congrArg Nat.succ)⟩
      cases m with
      | zero => exact hfirst
      | succ m => exact hturns m (Nat.lt_of_succ_lt_succ hm)
    | false =>
      have hnone : ¬ ∃ v, s.TurnTo i v := fun ⟨v, hv⟩ => by
        rw [State.turnTo_iff, hwaits] at hv
        exact Bool.false_ne_true hv.1
      have hstays : s.takeTurn i = s := by rw [State.takeTurn, hwaits]; rfl
      exact ⟨0, Nat.zero_le _, nofun, (Function.iterate_fixed hstays _).symm, .inr hnone⟩

theorem State.requestsBetween_none {s : State} {i : StreamId} (h : ¬ ∃ v, s.TurnTo i v) : s.requestsBetween i = s := by
  have hquiet : s.requestWaits i = false := by
    by_contra hwaits
    exact h ⟨_, State.turnTo_iff.2 ⟨Bool.eq_true_of_not_eq_false hwaits, rfl⟩⟩
  rw [State.requestsBetween, hquiet]
  rfl

theorem State.requestsBetween_some {s : State} {i : StreamId} (h : ∃ v, s.TurnTo i v) : s.requestsBetween i
    = (State.takeTurn i)^[min (Config.requestsFall s.sendInside.draws) s.inbound.length]
      { s.sendInside with draws := s.sendInside.draws + 1 } := by
  obtain ⟨v, hv⟩ := h
  rw [State.requestsBetween, if_pos (State.turnTo_iff.1 hv).1]

/-- R147, R178: what falls between two releases: a send that is free, and then turns of the executor. -/
theorem State.requestsBetween_turns (s : State) (i : StreamId) :
    ∃ n ≤ s.inbound.length, ∃ p : ℕ → State, (p 0 = s ∨ p 0 = { s.sendInside with draws := s.sendInside.draws + 1 })
      ∧ (∀ m < n, (p m).TurnTo i (p (m + 1))) ∧ p n = s.requestsBetween i
      ∧ (n = Config.requestsFall s.sendInside.draws ∨ n = s.inbound.length ∨ ¬ ∃ v, (p n).TurnTo i v) := by
  by_cases hwaits : ∃ v, s.TurnTo i v
  · obtain ⟨n, hn, hturns, hend, hlast⟩ := State.turns_end i
      (min (Config.requestsFall s.sendInside.draws) s.inbound.length) { s.sendInside with draws := s.sendInside.draws + 1 }
    refine ⟨n, by omega, fun m => (State.takeTurn i)^[m] { s.sendInside with draws := s.sendInside.draws + 1 }, .inr rfl,
      hturns, ?_, ?_⟩
    · exact hend.trans (State.requestsBetween_some hwaits).symm
    · rcases hlast with hmost | hnone
      · omega
      · exact .inr (.inr hnone)
  · exact ⟨0, Nat.zero_le _, fun _ => s, .inl rfl, nofun, (State.requestsBetween_none hwaits).symm, .inr (.inr hwaits)⟩

/-- Settles O33: the word's work and the frame's end are the model's, read off with the map and the channels that the ID handling
leaves, and the requests between releases are turns. -/
theorem wordsAndFrames : Obligations.WordsAndFrames := by
  refine ⟨fun s i k p => ?_, fun s i p => ?_, fun s i t g rest => ?_, fun s i => ⟨State.requestsBetween_none, ?_⟩⟩
  · intro pos a u found looked
    have htaken : s.wordTaken i k p = { a with trk := a.trk.set i looked } := by
      show (if u.extracting then a.mapLookup i k p else a) = _
      cases hextracting : u.extracting with
      | false =>
        have hfound : found = [] := by
          simp only [found, hextracting]
        have hlooked : looked = u := by simp only [looked, hfound, List.foldl_nil]
        rw [hlooked, PerStream.set_get]
        rfl
      | true =>
        obtain ⟨hmap, hchannels, -, hpos⟩ := State.idTaken_extracting (s := s) (i := i) (p := p) hextracting
        have hchannel (c : ChannelId) : a.channel c = s.channel c := State.channel_congr hchannels c
        have hfound : found = match u.frameId with
            | some id => lookup a.map i k u.wordPos id
            | none => [] := by
          have hmap' : a.map = s.map := hmap
          have hpos' : u.wordPos = pos := hpos
          simp only [found, hextracting, hmap', hpos']
          cases u.frameId <;> rfl
        rw [if_pos rfl, State.mapLookup_eq, ← hfound]
        simp only [hchannel]
        rfl
    rw [State.wordComplete_eq, htaken]
    have hget : ({ a with trk := a.trk.set i looked } : State).trk.get i = looked := PerStream.get_set _ _ _
    rw [hget]
    refine if_congr Iff.rfl rfl ?_
    show ({ a with trk := (a.trk.set i looked).set i _ } : State) = _
    rw [PerStream.set_set]
  · intro t y failed flags ended counted released
    have hreleased : s.releasedEnd i p = released := rfl
    obtain ⟨-, htrk⟩ := s.releasedEnd_records i p
    rw [State.minorFrameEnd_eq, hreleased]
    refine if_congr decide_eq_true_iff ?_ rfl
    rw [hreleased] at htrk
    rw [State.majorBoundary, htrk]
    rfl
  · exact ⟨rfl, rfl⟩
  · obtain ⟨hsyn, htrk⟩ := s.requestsBetween_records i
    refine ⟨hsyn, htrk, s.sendInside, ?_, s.requestsBetween_turns i⟩
    rcases s.sendInside_cases with ⟨-, hstays⟩ | ⟨-, hstays | hgoes⟩
    · exact .inl hstays
    · exact .inr (.inl hstays)
    · exact .inr (.inr (congrArg Host.Outcome.next hgoes.symm))

end Sys2Proof.Machine
end

section
/-! A bit as a chain of the executor's turns (R147, R189), and what the events of one stream leave of the other (O31). -/

namespace Sys2Proof.Machine

/-! ### Chains of turns (R147, R189) -/

/-- `t` is reached from `s` by stretches that `R` describes, with `n` turns of the executor inside a bit of stream `i` between
them. -/
inductive State.TurnChain (i : StreamId) (R : State → State → Prop) (s : State) : ℕ → State → Prop
  | stretch {t : State} : R s t → State.TurnChain i R s 0 t
  | turn {n : ℕ} {u v t : State} : State.TurnChain i R s n u → u.TurnTo i v → R v t → State.TurnChain i R s (n + 1) t

section
variable {i : StreamId} {R : State → State → Prop} {s : State}

theorem State.TurnChain.extend (htrans : ∀ {u v w : State}, R u v → R v w → R u w) {n : ℕ} {t w : State}
    (h : State.TurnChain i R s n t) (hr : R t w) : State.TurnChain i R s n w := by
  cases h with
  | stretch hs => exact .stretch (htrans hs hr)
  | turn hc ht hv => exact .turn hc ht (htrans hv hr)

/-- A turn may be made or not. -/
theorem State.TurnChain.takeTurn (hrefl : ∀ u : State, R u u) {t : State} (h : ∃ n, State.TurnChain i R s n t) :
    ∃ n, State.TurnChain i R s n (t.takeTurn i) := by
  obtain ⟨n, hn⟩ := h
  unfold State.takeTurn
  split
  next hwaits => exact ⟨n + 1, .turn hn (State.turnTo_iff.2 ⟨hwaits, rfl⟩) (hrefl _)⟩
  next => exact ⟨n, hn⟩

theorem State.TurnTo.inbound {u v : State} (h : u.TurnTo i v) : ∃ q, u.inbound = q :: v.inbound := by
  obtain ⟨hwaits, rfl⟩ := State.turnTo_iff.1 h
  obtain ⟨q, rest, hhead, -⟩ := (u.requestWaits_iff i).1 hwaits
  exact ⟨q, by rw [State.takeAny_inbound hhead, hhead.1]⟩

/-- Each turn takes a request off the queue, so there are at most as many as waited. -/
theorem State.TurnChain.length_le (hinbound : ∀ {u v : State}, R u v → v.inbound = u.inbound) {n : ℕ} {t : State}
    (h : State.TurnChain i R s n t) : t.inbound.length + n = s.inbound.length := by
  induction h with
  | stretch hs => rw [hinbound hs, Nat.add_zero]
  | turn _ ht hv ih =>
    obtain ⟨q, hq⟩ := ht.inbound
    rw [hq, List.length_cons] at ih
    rw [hinbound hv]
    omega

/-- The states in which the turns of a chain begin and end. -/
theorem State.TurnChain.states {n : ℕ} {t : State} (h : State.TurnChain i R s n t) : ∃ before after : ℕ → State,
    R s (before 0) ∧ (∀ m < n, (before m).TurnTo i (after m) ∧ R (after m) (before (m + 1))) ∧ before n = t := by
  induction h with
  | @stretch t hs => exact ⟨fun _ => t, fun _ => t, hs, nofun, rfl⟩
  | @turn n u v t hc ht hv ih =>
    obtain ⟨before, after, hfirst, hturns, hlast⟩ := ih
    refine ⟨fun m => if m = n + 1 then t else before m, fun m => if m = n then v else after m, ?_, fun m hm => ?_, ?_⟩
    · simpa using hfirst
    · rcases Nat.lt_succ_iff_lt_or_eq.1 hm with hlt | rfl
      · obtain ⟨hturn, hstretch⟩ := hturns m hlt
        simp only [hlt.ne, if_false, show m ≠ n + 1 by omega, show m + 1 ≠ n + 1 by omega]
        exact ⟨hturn, hstretch⟩
      · simp only [if_true, show m ≠ m + 1 by omega, if_false]
        exact ⟨hlast ▸ ht, hv⟩
    · simp

end

/-! ### What the work of one stream leaves of the other -/

/-- R147: what a stretch of another stream's work leaves of stream `j` and of what no stream owns. -/
structure State.Apart (j : StreamId) (u v : State) : Prop where
  syn : v.syn.get j = u.syn.get j
  trk : v.trk.get j = u.trk.get j
  stage : v.stage.get j = u.stage.get j
  map : ofStream j v.map = ofStream j u.map
  channels : ∀ (k : ChannelId) (ch : Channel), ch.config.stream = j → (v.channel k = some ch ↔ u.channel k = some ch)
  rosters : ∀ r : RosterId, (u.roster r).stream = j → v.roster r = u.roster r
  profiles : v.profiles = u.profiles
  poolFree : v.poolFree = u.poolFree
  inbound : v.inbound = u.inbound
  replies : v.replies = u.replies
  cache : v.cache = u.cache
  rx : v.rx = u.rx
  tx : u.tx ≠ none → v.tx = u.tx
  ready : v.ready = u.ready
  timebase : v.timebase = u.timebase

section
variable {i j : StreamId}

theorem State.Apart.refl (u : State) : State.Apart j u u :=
  ⟨rfl, rfl, rfl, rfl, fun _ _ _ => Iff.rfl, fun _ _ => rfl, rfl, rfl, rfl, rfl, rfl, rfl, fun _ => rfl, rfl, rfl⟩

theorem State.Apart.trans {u v w : State} (h : State.Apart j u v) (h' : State.Apart j v w) : State.Apart j u w where
  syn := h'.syn.trans h.syn
  trk := h'.trk.trans h.trk
  stage := h'.stage.trans h.stage
  map := h'.map.trans h.map
  channels k ch hch := (h'.channels k ch hch).trans (h.channels k ch hch)
  rosters r hr := (h'.rosters r (by rw [h.rosters r hr]; exact hr)).trans (h.rosters r hr)
  profiles := h'.profiles.trans h.profiles
  poolFree := h'.poolFree.trans h.poolFree
  inbound := h'.inbound.trans h.inbound
  replies := h'.replies.trans h.replies
  cache := h'.cache.trans h.cache
  rx := h'.rx.trans h.rx
  tx hu := (h'.tx (by rw [h.tx hu]; exact hu)).trans (h.tx hu)
  ready := h'.ready.trans h.ready
  timebase := h'.timebase.trans h.timebase

/-- A change of nothing but the other stream's records, the Notice Unit, the line and the free values. -/
theorem State.Apart.of_records {u v : State} (h : v = { u with
    syn := v.syn, trk := v.trk, notices := v.notices, tx := v.tx, draws := v.draws })
    (hsyn : v.syn.get j = u.syn.get j) (htrk : v.trk.get j = u.trk.get j) (htx : u.tx ≠ none → v.tx = u.tx) :
    State.Apart j u v := by
  generalize v.syn = y at *
  generalize v.trk = t at *
  generalize v.tx = x at *
  generalize v.notices = n at *
  generalize v.draws = d at *
  subst h
  exact ⟨hsyn, htrk, rfl, rfl, fun _ _ _ => Iff.rfl, fun _ _ => rfl, rfl, rfl, rfl, rfl, rfl, rfl, htx, rfl, rfl⟩

theorem State.Apart.setSyn (hij : i ≠ j) (u : State) (y : Syn) : State.Apart j u (u.setSyn i y) :=
  .of_records rfl (PerStream.get_set_ne _ hij.symm _) rfl fun _ => rfl

theorem State.Apart.setTrk (hij : i ≠ j) (u : State) (t : Tracker) : State.Apart j u (u.setTrk i t) :=
  .of_records rfl rfl (PerStream.get_set_ne _ hij.symm _) fun _ => rfl

/-- R195: raises begin a notice only on a free line. -/
theorem State.Apart.raiseAll (u : State) (rs : List Raise) : State.Apart j u (u.raiseAll rs) := by
  refine .of_records ?_ (by rw [State.raiseAll_syn]) (by rw [State.raiseAll_trk]) fun htx => ?_
  · rw [State.raiseAll_syn, State.raiseAll_trk]
    exact State.raiseAll_eq u rs
  · rw [State.raiseAll_held (.inl htx)]

theorem State.Apart.sendInside (u : State) : State.Apart j u u.sendInside := by
  obtain ⟨n, x, d, hframe⟩ := u.sendInside_frame
  refine .of_records ?_ (by rw [State.sendInside_syn]) (by rw [State.sendInside_trk]) fun htx => ?_
  · rw [hframe]
  · rcases u.sendInside_cases with ⟨-, hstays⟩ | ⟨hfree, -⟩
    · rw [hstays]
    · exact absurd ((State.nextFrame_notice u).1 hfree).1 htx

theorem State.Apart.draws (u : State) (n : ℕ) : State.Apart j u { u with draws := n } :=
  .of_records rfl rfl rfl fun _ => rfl

/-- A change of nothing but the map, the staged lists, the Channel Table and the rosters. -/
theorem State.Apart.of_tables {u v : State} (h : v = { u with
    map := v.map, stage := v.stage, channels := v.channels, rosters := v.rosters })
    (hstage : v.stage.get j = u.stage.get j) (hmap : ofStream j v.map = ofStream j u.map)
    (hchannels : ∀ (k : ChannelId) (ch : Channel), ch.config.stream = j → (v.channel k = some ch ↔ u.channel k = some ch))
    (hrosters : ∀ r : RosterId, (u.roster r).stream = j → v.roster r = u.roster r) : State.Apart j u v :=
  ⟨by rw [h], by rw [h], hstage, hmap, hchannels, hrosters, by rw [h], by rw [h], by rw [h], by rw [h], by rw [h], by rw [h],
    fun _ => by rw [h], by rw [h], by rw [h]⟩

/-- A change of the other stream's channels that keeps their binding. -/
theorem State.Apart.mapChannels (hij : i ≠ j) (u : State) {f : ChannelId → Channel → Channel}
    (hother : ∀ c ch, ch.config.stream ≠ i → f c ch = ch) (hconfig : ∀ c ch, (f c ch).config = ch.config) :
    State.Apart j u (u.mapChannels f) := by
  refine .of_tables (by simp only [State.mapChannels]) (by rw [State.mapChannels_stage]) (by rw [State.mapChannels_map])
    (fun c ch hch => ?_) fun r _ => State.roster_congr (u.mapChannels_rosters f) r
  rw [State.channel_mapChannels]
  cases hc : u.channel c with
  | none => rfl
  | some old =>
    rw [Option.map_some]
    by_cases hi : old.config.stream = i
    · have hold : old ≠ ch := fun e => hij (hi.symm.trans (by rw [e]; exact hch))
      have hnew : f c old ≠ ch := fun e => hij (hi.symm.trans (by rw [← hconfig c old, e]; exact hch))
      simp [hold, hnew]
    · rw [hother c old hi]

theorem State.Apart.setChannel (hij : i ≠ j) {u : State} {c : ChannelId} {old new : Channel} (hc : u.channel c = some old)
    (hi : old.config.stream = i) (hconfig : new.config = old.config) : State.Apart j u (u.setChannel c (some new)) := by
  refine .of_tables rfl rfl rfl (fun k ch hch => ?_) fun _ _ => rfl
  rw [State.channel_setChannel]
  by_cases hk : k = c
  · have hold : old ≠ ch := fun e => hij (hi.symm.trans (by rw [e]; exact hch))
    have hnew : new ≠ ch := fun e => hij (hi.symm.trans (by rw [← hconfig, e]; exact hch))
    rw [if_pos hk, hk, hc]
    simp [hold, hnew]
  · rw [if_neg hk]

theorem State.Apart.release (hij : i ≠ j) (u : State) (c : ChannelId) (raw : Sample) : State.Apart j u (u.release i c raw) := by
  unfold State.release
  split
  · exact .refl u
  · rename_i ch hc
    split
    · rename_i hi
      exact (State.Apart.setChannel hij hc hi (Channel.release_config ch _ c raw).1).trans (.raiseAll _ _)
    · exact .refl u

theorem State.Apart.rosterBoundary (hij : i ≠ j) (u : State) (count : BitVec 32) :
    State.Apart j u (u.rosterBoundary i count) := by
  have hrecords : State.Apart j u { u with rosters := u.rosters.map fun v => v.boundary i } := by
    refine .of_tables rfl rfl rfl (fun _ _ _ => Iff.rfl) fun r hr => ?_
    have hget : ({ u with rosters := u.rosters.map fun v => v.boundary i } : State).roster r = (u.roster r).boundary i :=
      Vector.getElem_map ..
    rw [hget, Roster.boundary_eq, if_neg]
    rw [decide_eq_true_iff]
    exact fun hboth => hij (hboth.2.symm.trans hr)
  exact hrecords.trans (.raiseAll _ _)

theorem State.Apart.staleStream (hij : i ≠ j) (u : State) (why : StaleReason) : State.Apart j u (u.staleStream i why) := by
  refine (State.Apart.mapChannels hij u (fun c ch hi => if_neg hi) fun c ch => ?_).trans (.raiseAll _ _)
  split
  · exact Channel.enterStale_config ch why
  · rfl

theorem State.Apart.applyCommit (hij : i ≠ j) {u : State} (h : u.MapLegal) : State.Apart j u (u.applyCommit i) := by
  have hmap := ofStream_applyEdits_ne hij.symm (h.stagedStream i) u.map
  have htables : State.Apart j u
      { u with map := applyEdits i u.map (u.stage.get i).edits, stage := u.stage.set i .reset } :=
    .of_tables rfl (PerStream.get_set_ne _ hij.symm _) hmap (fun _ _ _ => Iff.rfl) fun _ _ => rfl
  refine htables.trans (State.Apart.mapChannels hij _ (fun c ch hi => if_neg hi) fun c ch => ?_)
  split
  · exact Channel.setWidth_config ch _
  · rfl

/-- R85: a stop of one stream reads the legal map and leaves what the other stream owns. -/
theorem streamChanges_apart (hij : i ≠ j) (s : State) : StreamChanges i fun u => u.MapLegal ∧ State.Apart j s u where
  syn u y h := ⟨(partChanges_mapLegal.streamChanges i).syn u y h.1, h.2.trans (.setSyn hij u y)⟩
  trk u t h := ⟨(partChanges_mapLegal.streamChanges i).trk u t h.1, h.2.trans (.setTrk hij u t)⟩
  raise u rs h := ⟨partChanges_mapLegal.raise u rs h.1, h.2.trans (.raiseAll u rs)⟩
  stale u why h := ⟨(partChanges_mapLegal.streamChanges i).stale u why h.1, h.2.trans (.staleStream hij u why)⟩
  commit _ h hp := ⟨h.1.applyCommit (.inl hp), h.2.trans (.applyCommit hij h.1)⟩

/-- R147: a bit's work between the requests taken inside it leaves what the other stream owns. -/
theorem streamWork_apart (hij : i ≠ j) (s : State) :
    StreamWork i fun u => u.MapLegal ∧ ∃ n, State.TurnChain i (State.Apart j) s n u := by
  have hlegal := partChanges_mapLegal.streamWork i
  have hextend {u v : State} (h : ∃ n, State.TurnChain i (State.Apart j) s n u) (hv : State.Apart j u v) :
      ∃ n, State.TurnChain i (State.Apart j) s n v := h.imp fun n hn => State.TurnChain.extend (R := State.Apart j) .trans hn hv
  exact
    { syn := fun u y h => ⟨hlegal.syn u y h.1, hextend h.2 (.setSyn hij u y)⟩
      trk := fun u t h => ⟨hlegal.trk u t h.1, hextend h.2 (.setTrk hij u t)⟩
      raise := fun u rs h => ⟨hlegal.raise u rs h.1, hextend h.2 (.raiseAll u rs)⟩
      stale := fun u why h => ⟨hlegal.stale u why h.1, hextend h.2 (.staleStream hij u why)⟩
      commit := fun _ h hp => ⟨h.1.applyCommit (.inl hp), hextend h.2 (.applyCommit hij h.1)⟩
      send := fun u h => ⟨hlegal.send u h.1, hextend h.2 (.sendInside u)⟩
      release := fun u c raw h => ⟨hlegal.release u c raw h.1, hextend h.2 (.release hij u c raw)⟩
      boundary := fun u n h => ⟨hlegal.boundary u n h.1, hextend h.2 (.rosterBoundary hij u n)⟩
      turn := fun u h => ⟨hlegal.turn u h.1, State.TurnChain.takeTurn .refl h.2⟩
      counted := fun u n h => ⟨hlegal.counted u n h.1, hextend h.2 (.draws u n)⟩ }

end

/-- Settles O31: an expiry is one stretch, and a bit is a chain of stretches with the executor's turns between them. -/
theorem streamsApart : Obligations.StreamsApart := by
  intro i j s t hij hlegal same
  have hsame {u v : State} (h : State.Apart j u v) : same u v :=
    ⟨h.syn, h.trk, h.stage, h.map, h.channels, h.rosters, h.profiles, h.poolFree, h.inbound, h.replies, h.cache, h.rx, h.tx,
      h.ready, h.timebase⟩
  refine ⟨fun c hc hexec => hsame ?_, fun b hexec => ?_⟩
  · rcases hc with rfl | rfl
    · cases hexec
      exact ((streamChanges_apart hij s).idleExpiry ⟨hlegal, .refl s⟩).2
    · cases hexec
      exact ((streamChanges_apart hij s).windowExpiry ⟨hlegal, .refl s⟩).2
  · cases hexec
    obtain ⟨-, n, hchain⟩ := (streamWork_apart hij s).bitArrival ⟨hlegal, 0, .stretch (.refl s)⟩ b
    obtain ⟨before, after, hfirst, hturns, hlast⟩ := hchain.states
    have hlength := hchain.length_le fun h => h.inbound
    refine ⟨n, by omega, before, after, hsame hfirst, fun m hm => ?_, hlast ▸ hsame (.refl _)⟩
    exact ⟨(hturns m hm).1, hsame (hturns m hm).2⟩

end Sys2Proof.Machine
end

section
/-! Profile slots (01): what changes a slot (R11 to R13). The requests' part of O19. -/

namespace Sys2Proof.Machine

/-! ### The requests (R12, R13) -/

theorem streamChanges_profiles (i : StreamId) (s : State) : StreamChanges i fun u => u.profiles = s.profiles where
  syn _ _ h := h
  trk _ _ h := h
  raise _ _ h := (State.raiseAll_profiles _ _).trans h
  stale u _ h := ((State.raiseAll_profiles _ _).trans (u.mapChannels_profiles _)).trans h
  commit _ h _ := (State.mapChannels_profiles _ _).trans h

/-- Of the requests only PROFILE_LOAD and PROFILE_DROP change a slot. -/
theorem requestRuns_profiles : ∀ r ∈ requestRuns, r.1 ≠ kindProfileLoad → r.1 ≠ kindProfileDrop → ∀ p s,
    (r.2 p s).2.profiles = s.profiles := by
  have no : ∀ {k : Byte} {run : List Byte → State → Reply × State}, (∀ p s, (run p s).2.profiles = s.profiles) →
      k ≠ kindProfileLoad → k ≠ kindProfileDrop → ∀ p s, (run p s).2.profiles = s.profiles := fun h _ _ => h
  have harm : ∀ p s, (runStreamArm p s).2.profiles = s.profiles := by
    intro p s
    unfold runStreamArm
    split
    · rfl
    · split
      · rfl
      · split
        · exact State.raiseSync_profiles _ _ _
        · rfl
  have hdisarm : ∀ p s, (runStreamDisarm p s).2.profiles = s.profiles := by
    intro p s
    unfold runStreamDisarm
    split
    · rfl
    · dsimp only
      split
      · rfl
      · exact (streamChanges_profiles _ s).disarm rfl _
  simp only [requestRuns, List.forall_mem_cons]
  refine ⟨no fun p s => ?_, no fun p s => ?_, fun h => absurd rfl h, fun _ h => absurd rfl h, no fun p s => ?_, no harm,
    no hdisarm, no fun p s => ?_, no fun p s => ?_, no fun p s => ?_, no fun p s => ?_, no fun p s => ?_,
    no fun p s => ?_, no fun p s => ?_, no fun p s => ?_, no fun p s => ?_, no fun p s => ?_, no fun p s => ?_,
    no fun p s => ?_, no fun p s => ?_, no fun p s => ?_, no fun p s => ?_, no fun p s => ?_, no fun p s => ?_,
    no fun p s => ?_, by simp⟩
  all_goals
    simp only [runPing, runTimeGet, runProfileRead, runStreamStatus, runMapAdd, runMapRemove, runMapCommit, runMapDiscard,
      runMapList, runChannelBind, runChannelUnbind, runChannelSet, runChannelRead, runChannelClear, runQueueDrain, runRosterSet,
      runRosterRead, runRosterStart, runRosterStop, runNoticeMask, runNoticeGrant, State.stageEdit, State.commit]
    repeat' split
    all_goals simp [State.makePending]

/-- The slot number that a payload begins with. -/
theorem head_of_fieldAt {p : List Byte} (hp : p ≠ []) {k : Slot} (h : fieldAt p 0 1 = k.val) :
    p.head? = some (BitVec.ofNat 8 k.val) := by
  cases p with
  | nil => exact absurd rfl hp
  | cons b rest =>
    rw [fieldAt_cons_zero] at h
    rw [List.head?_cons, ← h, BitVec.ofNat_toNat]
    rfl

/-- R11, R12: a load changes the slot it names, and only where that slot is free. -/
theorem runProfileLoad_profile {p : List Byte} {s : State} {k : Slot} (h : (runProfileLoad p s).2.profile k ≠ s.profile k) :
    s.slotInUse k = false ∧ fieldAt p 0 1 = k.val := by
  unfold runProfileLoad at h
  split at h
  · exact absurd rfl h
  · rename_i hpasses
    have hslot : Fin.ofNat 4 (readLoad p).slot = k → (readLoad p).slot = k.val := by
      have hrange := (LoadFields.failing_none hpasses).1
      rintro rfl
      exact (Nat.mod_eq_of_lt (by omega)).symm
    split at h
    · exact absurd rfl h
    · rename_i hfree
      rw [State.profile_setProfile] at h
      by_cases hk : k = Fin.ofNat 4 (readLoad p).slot
      · exact ⟨by rw [hk]; exact Bool.eq_false_of_not_eq_true hfree, hslot hk.symm⟩
      · rw [if_neg hk] at h
        exact absurd rfl h

/-- R13: a drop changes the slot it names, and only where that slot is free. -/
theorem runProfileDrop_profile {p : List Byte} {s : State} {k : Slot} (h : (runProfileDrop p s).2.profile k ≠ s.profile k) :
    s.slotInUse k = false ∧ fieldAt p 0 1 = k.val := by
  unfold runProfileDrop at h
  split at h
  · exact absurd rfl h
  · rename_i hpasses
    have hslot : Fin.ofNat 4 (fieldAt p 0 1) = k → fieldAt p 0 1 = k.val := by
      have hrange := (fieldZeroFailing_none p 3).1 hpasses
      rintro rfl
      exact (Nat.mod_eq_of_lt (by omega)).symm
    split at h
    · exact absurd rfl h
    · rename_i hfree
      rw [State.profile_setProfile] at h
      by_cases hk : k = Fin.ofNat 4 (fieldAt p 0 1)
      · exact ⟨by rw [hk]; exact Bool.eq_false_of_not_eq_true hfree, hslot hk.symm⟩
      · rw [if_neg hk] at h
        exact absurd rfl h

/-- R11 to R13: a new request changes a slot only as a load or a drop of that slot, which is not in use. -/
theorem actAny_profile {q : Request} {s : State} {k : Slot} (h : (actAny q s).profile k ≠ s.profile k) :
    s.slotInUse k = false ∧ (q.kind = 0x08 ∨ q.kind = 0x09) ∧ q.payload.head? = some (BitVec.ofNat 8 k.val) := by
  unfold actAny at h
  split at h
  · unfold actResetChannels at h
    split at h
    · exact absurd rfl h
    · have hprofiles : (s.resetChannels.answer q (.ok (byte 2))).profiles = s.profiles := by
        rw [State.answer_profiles, State.resetChannels, State.mapChannels_profiles]
      exact absurd (State.profile_congr hprofiles k) h
  · split at h
    · rename_i r hfound
      have hmem := List.mem_of_find?_eq_some hfound
      have hkind : r.1 = q.kind := by simpa using List.find?_some hfound
      rcases runChecked_cases r.2 q s with hsame | ⟨hlength, hruns⟩
      · rw [hsame] at h
        exact absurd rfl h
      · rw [hruns] at h
        change (r.2 q.payload s).2.profile k ≠ _ at h
        have hnonempty (lo : Nat) (hlo : 0 < lo) (hrow : (requestLengths.filter fun x => x.1 == q.kind) = [(q.kind, lo, lo)]) :
            q.payload ≠ [] := by
          have hl := length_eq_of_row hlength hrow
          rintro hnil
          rw [hnil, List.length_nil] at hl
          omega
        by_cases hload : r.1 = kindProfileLoad
        · have hrun : r = (kindProfileLoad, runProfileLoad) := by
            rw [← hkind, hload] at hfound
            exact (Option.some.inj (hfound.symm.trans rfl))
          rw [hrun] at h
          obtain ⟨hfree, hslot⟩ := runProfileLoad_profile h
          have hk8 : q.kind = 0x08 := hkind.symm.trans hload
          refine ⟨hfree, .inl hk8, head_of_fieldAt (hnonempty 28 (by decide) ?_) hslot⟩
          rw [hk8]
          exact (by decide : (requestLengths.filter fun x => x.1 == 0x08) = [(0x08, 28, 28)])
        · by_cases hdrop : r.1 = kindProfileDrop
          · have hrun : r = (kindProfileDrop, runProfileDrop) := by
              rw [← hkind, hdrop] at hfound
              exact (Option.some.inj (hfound.symm.trans rfl))
            rw [hrun] at h
            obtain ⟨hfree, hslot⟩ := runProfileDrop_profile h
            have hk9 : q.kind = 0x09 := hkind.symm.trans hdrop
            exact ⟨hfree, .inr hk9, head_of_fieldAt (hnonempty 1 (by decide) (by rw [hk9]; rfl)) hslot⟩
          · exact absurd (State.profile_congr (requestRuns_profiles r hmem hload hdrop q.payload s) k) h
    · exact absurd rfl h

/-- R189: a turn of the executor changes a slot only as a load or a drop, which is at the head of the queue. -/
theorem State.takeAny_profile {s : State} {q : Request} {rest : List Request} (hhead : s.head q rest) {k : Slot}
    (h : s.takeAny.profile k ≠ s.profile k) :
    s.slotInUse k = false ∧ (q.kind = 0x08 ∨ q.kind = 0x09) ∧ q.payload.head? = some (BitVec.ofNat 8 k.val) := by
  unfold State.takeAny at h
  cases hc : s.cached q with
  | some e =>
    rw [State.takeRequest_duplicate hhead hc rfl] at h
    exact absurd rfl h
  | none =>
    rw [State.takeRequest_fresh ⟨hhead, hc⟩ rfl] at h
    exact actAny_profile (s := { s with inbound := rest }) h

/-- The rows of a known kind are those that the kind names. -/
theorem requestKind_of_takenBy {c : Instr} {q : Request} (h : takenBy c q = true) (hkind : q.kind = 0x08 ∨ q.kind = 0x09) :
    c = .profileLoad ∨ c = .profileDrop := by
  have hknown : kindKnown q.kind = true := by rcases hkind with hk | hk <;> rw [hk] <;> decide
  have hreset : (q.kind == kindReset) = false := by rcases hkind with hk | hk <;> rw [hk] <;> decide
  have hclear : (q.kind == kindChannelClear) = false := by rcases hkind with hk | hk <;> rw [hk] <;> decide
  cases c
  case profileLoad => exact .inl rfl
  case profileDrop => exact .inr rfl
  case badKind => rw [takenBy, hknown] at h; exact absurd h Bool.false_ne_true
  case resetFull => rw [takenBy, takesReset, hreset] at h; exact absurd h Bool.false_ne_true
  case resetStreams => rw [takenBy, takesReset, hreset] at h; exact absurd h Bool.false_ne_true
  case resetChannels => rw [takenBy, takesReset, hreset] at h; exact absurd h Bool.false_ne_true
  case channelClearLatches => rw [takenBy, takesClear, hclear] at h; exact absurd h Bool.false_ne_true
  case channelClearValue => rw [takenBy, takesClear, hclear] at h; exact absurd h Bool.false_ne_true
  case channelClearQueue => rw [takenBy, takesClear, hclear] at h; exact absurd h Bool.false_ne_true
  case powerOnReset | bitArrival | idleExpiry | windowExpiry | staleTimerExpiry | frameReceived | byteArrival =>
    exact absurd h Bool.false_ne_true
  all_goals
    have hrow := beq_iff_eq.1 (show (_ == some q.kind) = true from h)
    rcases hkind with hk | hk <;> rw [hk] at hrow <;> exact absurd hrow (by decide)

/-! ### The commands that are no requests, bits aside -/

theorem State.byteArrival_profiles (s : State) (b : LineByte) : (s.byteArrival b).profiles = s.profiles := by
  unfold State.byteArrival State.dropPartial
  split
  · rfl
  · split <;> rfl

theorem State.resetStreams_profiles (s : State) : s.resetStreams.profiles = s.profiles := by
  rw [State.resetStreams_eq, State.sendInside_profiles, State.raiseAll_profiles]
  rfl

theorem exec_event_profiles {c : Instr} {s t : State} (he : exec c s = .next t) (hc : c.isRequest = false)
    (hpower : ∀ x, c ≠ .powerOnReset x) (hbit : ∀ i b, c ≠ .bitArrival i b) : t.profiles = s.profiles := by
  have next {x : State} (e : (Host.Outcome.next x : Host.Outcome State Fault Refusal) = .next t)
      (hx : x.profiles = s.profiles) : t.profiles = s.profiles := by
    cases e
    exact hx
  cases c
  case powerOnReset straps => exact absurd rfl (hpower straps)
  case bitArrival i b => exact absurd rfl (hbit i b)
  case idleExpiry i => exact next he ((streamChanges_profiles i s).idleExpiry rfl)
  case windowExpiry i => exact next he ((streamChanges_profiles i s).windowExpiry rfl)
  case staleTimerExpiry n =>
    simp only [Machine.exec, execStaleTimerExpiry] at he
    split_ifs at he
    refine next he ?_
    unfold State.staleExpiry
    split
    · rfl
    · split
      · exact State.raiseAll_profiles _ _
      · rfl
  case frameReceived bytes =>
    refine next he ?_
    clear he next hc hpower hbit
    induction bytes using List.reverseRecOn with
    | nil => rfl
    | append_singleton bytes b ih =>
      rw [List.foldl_append]
      exact (State.byteArrival_profiles _ b).trans ih
  case gapTimerExpiry =>
    refine next he ?_
    unfold State.gapExpiry State.dropPartial
    split
    · split <;> rfl
    · rfl
  case sendReady => exact next he (by unfold State.sendReady; split <;> [split <;> rfl; rfl])
  case sendReply => exact next he (by unfold State.sendReply; split <;> [split <;> rfl; rfl])
  case noticeSend =>
    refine next he ?_
    rcases s.noticeSend_cases with ⟨-, e⟩ | ⟨_, _, -, -, e⟩ <;> rw [e]
  case frameSent => exact next he rfl
  case byteArrival b => exact next he (State.byteArrival_profiles s b)
  case timebaseTick => exact next he rfl
  all_goals exact absurd hc (by decide)

/-- R11: a command other than a FULL reset, a power-on reset and a bit changes a slot only as a PROFILE_LOAD or a PROFILE_DROP of
a slot that is not in use. -/
theorem exec_profile {c : Instr} {s t : State} {k : Slot} (he : exec c s = .next t) (hfull : c ≠ .resetFull)
    (hpower : ∀ x, c ≠ .powerOnReset x) (hbit : ∀ i b, c ≠ .bitArrival i b) (h : t.profile k ≠ s.profile k) :
    (c = .profileLoad ∨ c = .profileDrop) ∧ s.slotInUse k = false := by
  by_cases hc : c.isRequest = true
  · rcases exec_request_cases hc he with rfl | ⟨q, rest, hhead, htaken, rfl⟩ | ⟨q, rest, -, -, ⟨hreset, -⟩ | ⟨-, rfl⟩⟩
    · exact absurd rfl h
    · obtain ⟨hfree, hkind, -⟩ := State.takeAny_profile hhead h
      exact ⟨requestKind_of_takenBy htaken hkind, hfree⟩
    · exact absurd hreset hfull
    · exact absurd (State.profile_congr (State.resetStreams_profiles { s with inbound := rest }) k) h
  · exact absurd (State.profile_congr (exec_event_profiles he (Bool.eq_false_of_not_eq_true hc) hpower hbit) k) h

end Sys2Proof.Machine
end

section
/-! A bit at the profile slots (01, 07): what its stretches leave between the requests taken inside it (R11, R147), and O19. -/

namespace Sys2Proof.Machine

/-! ### What a stretch of a bit's work leaves -/

/-- R11, R147: what a stretch of stream `i`'s work leaves of all that a slot's use and the executor's turns depend on. -/
structure State.Kept (i : StreamId) (u v : State) : Prop where
  profiles : v.profiles = u.profiles
  inbound : v.inbound = u.inbound
  replies : v.replies = u.replies
  cache : v.cache = u.cache
  timebase : v.timebase = u.timebase
  configs : ∀ c, (v.channel c).map Channel.config = (u.channel c).map Channel.config
  streams : ∀ j, (v.syn.get j).armed = (u.syn.get j).armed ∧ ((v.syn.get j).mode = .off ↔ (u.syn.get j).mode = .off)
    ∧ (j ≠ i → v.syn.get j = u.syn.get j ∧ v.trk.get j = u.trk.get j)

/-- The map and the staged edits stay. -/
def State.SameMap (u v : State) : Prop := v.map = u.map ∧ v.stage = u.stage

/-- R87: the pending commit of the stream is applied. -/
def State.Applied (i : StreamId) (u v : State) : Prop :=
  (u.stage.get i).pending = true ∧ v.map = applyEdits i u.map (u.stage.get i).edits ∧ v.stage = u.stage.set i .reset

/-- R87 to R89: the pending commit of the stream is applied, or the map and the staged edits stay. -/
def State.Settled (i : StreamId) (u v : State) : Prop := u.SameMap v ∨ State.Applied i u v

section
variable {i : StreamId}

theorem State.Kept.refl (u : State) : State.Kept i u u :=
  ⟨rfl, rfl, rfl, rfl, rfl, fun _ => rfl, fun _ => ⟨rfl, Iff.rfl, fun _ => ⟨rfl, rfl⟩⟩⟩

theorem State.Kept.trans {u v w : State} (h : State.Kept i u v) (h' : State.Kept i v w) : State.Kept i u w where
  profiles := h'.profiles.trans h.profiles
  inbound := h'.inbound.trans h.inbound
  replies := h'.replies.trans h.replies
  cache := h'.cache.trans h.cache
  timebase := h'.timebase.trans h.timebase
  configs c := (h'.configs c).trans (h.configs c)
  streams j := by
    obtain ⟨harmed, hoff, hother⟩ := h.streams j
    obtain ⟨harmed', hoff', hother'⟩ := h'.streams j
    refine ⟨harmed'.trans harmed, hoff'.trans hoff, fun hj => ?_⟩
    exact ⟨(hother' hj).1.trans (hother hj).1, (hother' hj).2.trans (hother hj).2⟩

theorem State.Kept.setSyn (u : State) {y : Syn} (harmed : y.armed = (u.syn.get i).armed)
    (hoff : y.mode = .off ↔ (u.syn.get i).mode = .off) : State.Kept i u (u.setSyn i y) := by
  refine ⟨rfl, rfl, rfl, rfl, rfl, fun _ => rfl, fun j => ?_⟩
  rw [State.setSyn_syn]
  by_cases hj : j = i
  · subst hj
    rw [PerStream.get_set]
    exact ⟨harmed, hoff, fun hne => absurd rfl hne⟩
  · rw [PerStream.get_set_ne _ hj]
    exact ⟨rfl, Iff.rfl, fun _ => ⟨rfl, rfl⟩⟩

theorem State.Kept.setTrk (u : State) (t : Tracker) : State.Kept i u (u.setTrk i t) :=
  ⟨rfl, rfl, rfl, rfl, rfl, fun _ => rfl, fun _ => ⟨rfl, Iff.rfl, fun hj => ⟨rfl, PerStream.get_set_ne _ hj _⟩⟩⟩

/-- A change that touches no stream's record. -/
theorem State.Kept.of_records {u v : State} (hprofiles : v.profiles = u.profiles) (hinbound : v.inbound = u.inbound)
    (hreplies : v.replies = u.replies) (hcache : v.cache = u.cache) (htimebase : v.timebase = u.timebase)
    (hsyn : v.syn = u.syn) (htrk : v.trk = u.trk)
    (hconfigs : ∀ c, (v.channel c).map Channel.config = (u.channel c).map Channel.config) : State.Kept i u v :=
  ⟨hprofiles, hinbound, hreplies, hcache, htimebase, hconfigs, fun _ => by rw [hsyn, htrk]; simp⟩

theorem State.Kept.raiseAll (u : State) (rs : List Raise) : State.Kept i u (u.raiseAll rs) :=
  .of_records (u.raiseAll_profiles rs) (u.raiseAll_inbound rs) (u.raiseAll_replies rs) (u.raiseAll_cache rs)
    (u.raiseAll_timebase rs) (u.raiseAll_syn rs) (u.raiseAll_trk rs)
    fun c => congrArg _ (State.channel_congr (u.raiseAll_channels rs) c)

theorem State.Kept.sendInside (u : State) : State.Kept i u u.sendInside :=
  .of_records u.sendInside_profiles u.sendInside_inbound u.sendInside_replies u.sendInside_cache u.sendInside_timebase
    u.sendInside_syn u.sendInside_trk fun c => congrArg _ (State.channel_congr u.sendInside_channels c)

theorem State.Kept.mapChannels (u : State) {f : ChannelId → Channel → Channel} (hf : ∀ c ch, (f c ch).config = ch.config) :
    State.Kept i u (u.mapChannels f) := by
  refine .of_records (u.mapChannels_profiles f) (u.mapChannels_inbound f) (u.mapChannels_replies f) (u.mapChannels_cache f)
    (u.mapChannels_timebase f) (u.mapChannels_syn f) (u.mapChannels_trk f) fun c => ?_
  rw [State.channel_mapChannels, Option.map_map]
  exact Option.map_congr fun ch _ => hf c ch

theorem State.Kept.release (u : State) (c : ChannelId) (raw : Sample) : State.Kept i u (u.release i c raw) := by
  unfold State.release
  split
  · exact .refl u
  · rename_i ch hc
    split
    · refine State.Kept.trans ?_ (.raiseAll _ _)
      refine .of_records rfl rfl rfl rfl rfl rfl rfl fun d => ?_
      rw [State.channel_setChannel]
      split_ifs with hd
      · rw [hd, hc, Option.map_some, Option.map_some, (ch.release_config u.timebase c raw).1]
      · rfl
    · exact .refl u

theorem State.SameMap.refl (u : State) : u.SameMap u := ⟨rfl, rfl⟩

theorem State.SameMap.trans {u v w : State} (h : u.SameMap v) (h' : v.SameMap w) : u.SameMap w :=
  ⟨h'.1.trans h.1, h'.2.trans h.2⟩

theorem State.SameMap.raiseAll (u : State) (rs : List Raise) : u.SameMap (u.raiseAll rs) :=
  ⟨u.raiseAll_map rs, u.raiseAll_stage rs⟩

theorem State.SameMap.sendInside (u : State) : u.SameMap u.sendInside := ⟨u.sendInside_map, u.sendInside_stage⟩

theorem State.SameMap.release (u : State) (c : ChannelId) (raw : Sample) : u.SameMap (u.release i c raw) := by
  unfold State.release
  split
  · exact .refl u
  · split
    · exact State.SameMap.trans ⟨rfl, rfl⟩ (.raiseAll _ _)
    · exact .refl u

/-- R85: once applied, no commit of the stream is pending, so the two never follow each other. -/
theorem State.Settled.trans {u v w : State} (h : State.Settled i u v) (h' : State.Settled i v w) : State.Settled i u w := by
  rcases h with ⟨hmap, hstage⟩ | ⟨hpending, hmap, hstage⟩
  · unfold State.Settled State.SameMap State.Applied at h' ⊢
    rwa [hmap, hstage] at h'
  · rcases h' with ⟨hmap', hstage'⟩ | ⟨hpending', -, -⟩
    · exact .inr ⟨hpending, hmap'.trans hmap, hstage'.trans hstage⟩
    · rw [hstage, PerStream.get_set] at hpending'
      exact absurd hpending' Bool.false_ne_true

/-! ### The work of a stream that is not OFF, up to a request -/

/-- R11: a stretch of the work of stream `i`, which is not OFF. -/
structure State.Stretch (i : StreamId) (s u : State) : Prop where
  kept : State.Kept i s u
  settled : State.Settled i s u
  on : (u.syn.get i).mode ≠ .off

section
variable {s u : State}

theorem State.Stretch.refl (h : (s.syn.get i).mode ≠ .off) : State.Stretch i s s := ⟨.refl s, .inl (.refl s), h⟩

theorem State.Stretch.setSyn (h : State.Stretch i s u) {y : Syn} (harmed : y.armed = (u.syn.get i).armed)
    (hon : y.mode ≠ .off) : State.Stretch i s (u.setSyn i y) where
  kept := h.kept.trans (.setSyn u harmed ⟨fun e => absurd e hon, fun e => absurd e h.on⟩)
  settled := h.settled.trans (.inl ⟨rfl, rfl⟩)
  on := by
    rw [State.setSyn_get]
    exact hon

theorem State.Stretch.setTrk (h : State.Stretch i s u) (t : Tracker) : State.Stretch i s (u.setTrk i t) :=
  ⟨h.kept.trans (.setTrk u t), h.settled.trans (.inl ⟨rfl, rfl⟩), h.on⟩

theorem State.Stretch.raiseAll (h : State.Stretch i s u) (rs : List Raise) : State.Stretch i s (u.raiseAll rs) :=
  ⟨h.kept.trans (.raiseAll u rs), h.settled.trans (.inl (.raiseAll u rs)), by rw [State.raiseAll_syn]; exact h.on⟩

theorem State.Stretch.raiseSync (h : State.Stretch i s u) (why : SyncReason) : State.Stretch i s (u.raiseSync i why) :=
  (h.setSyn (y := { u.syn.get i with lastReason := some why }) rfl h.on).raiseAll _

theorem State.Stretch.staleStream (h : State.Stretch i s u) (why : StaleReason) : State.Stretch i s (u.staleStream i why) := by
  have hstale : State.Stretch i s (u.mapChannels fun _ ch => if ch.config.stream = i then ch.enterStale why else ch) := by
    refine ⟨h.kept.trans (.mapChannels u fun c ch => ?_), h.settled.trans (.inl ?_), ?_⟩
    · split
      · exact ch.enterStale_config why
      · rfl
    · exact ⟨State.mapChannels_map _ _, State.mapChannels_stage _ _⟩
    · rw [State.mapChannels_syn]
      exact h.on
  exact hstale.raiseAll _

theorem State.Stretch.settlePending (h : State.Stretch i s u) : State.Stretch i s (u.settlePending i) := by
  unfold State.settlePending
  split
  next hpending =>
    have happlied : State.Stretch i s (u.applyCommit i) := by
      refine ⟨h.kept.trans ?_, h.settled.trans (.inr ⟨hpending, u.applyCommit_map i, u.applyCommit_stage i⟩), h.on⟩
      have htables : State.Kept i u
          { u with map := applyEdits i u.map (u.stage.get i).edits, stage := u.stage.set i .reset } :=
        .of_records rfl rfl rfl rfl rfl rfl rfl fun _ => rfl
      refine htables.trans (.mapChannels _ fun c ch => ?_)
      split
      · exact ch.setWidth_config _
      · rfl
    exact happlied.raiseAll _
  next => exact h

theorem State.Stretch.extractionStop (h : State.Stretch i s u) (why : StaleReason) :
    State.Stretch i s (u.extractionStop i why) := ((h.setTrk _).staleStream why).settlePending

/-! #### The expected sync position (R21 to R26) -/

theorem State.Stretch.gainLock (h : State.Stretch i s u) (k : Slot) (p : Profile) : State.Stretch i s (u.gainLock i k p) :=
  (((h.setSyn (y := (u.syn.get i).gainLock p) rfl nofun).setTrk _).setTrk _).raiseSync _

theorem State.Stretch.loseLock (h : State.Stretch i s u) (why : SyncReason) : State.Stretch i s (u.loseLock i why) :=
  (((h.setSyn (y := (u.syn.get i).loseLock u.timebase) rfl nofun).setTrk _).raiseSync why).extractionStop _

theorem State.Stretch.coastOn (h : State.Stretch i s u) (p : Profile) (misses : Nat) (raised : Bool) :
    State.Stretch i s (u.coastOn i p misses raised) := by
  have hcoasting : State.Stretch i s
      (u.setSyn i { u.syn.get i with mode := .coast, missCount := misses, bitsToSync := p.frameBits }) := h.setSyn rfl nofun
  unfold State.coastOn
  cases raised with
  | true => exact (hcoasting.raiseSync .miss).setTrk _
  | false => exact hcoasting.setTrk _

theorem State.Stretch.verifyPosition (h : State.Stretch i s u) (k : Slot) (p : Profile) :
    State.Stretch i s (u.verifyPosition i k p) := by
  unfold State.verifyPosition
  split
  · split
    · exact h.setSyn rfl h.on
    · exact h.gainLock k p
  · exact h.setSyn rfl nofun

theorem State.Stretch.lockedPosition (h : State.Stretch i s u) (p : Profile) :
    State.Stretch i s (u.lockedPosition i p) := by
  unfold State.lockedPosition
  split
  · exact (h.setSyn (y := { u.syn.get i with bitsToSync := p.frameBits }) rfl h.on).setTrk _
  · split
    · exact h.coastOn p 1 true
    · exact h.loseLock .misses

theorem State.Stretch.coastPosition (h : State.Stretch i s u) (p : Profile) : State.Stretch i s (u.coastPosition i p) := by
  unfold State.coastPosition
  split
  · exact ((h.setSyn (y := { u.syn.get i with mode := .locked, missCount := 0, bitsToSync := p.frameBits }) rfl
      nofun).raiseSync .recovered).setTrk _
  · split
    · exact h.coastOn p _ false
    · exact h.loseLock .misses

theorem State.Stretch.expectedPosition (h : State.Stretch i s u) (k : Slot) (p : Profile) :
    State.Stretch i s (u.expectedPosition i k p) := by
  have htimed : State.Stretch i s (u.setSyn i { u.syn.get i with bitsToSync := 0, frameTime := some u.timebase }) :=
    h.setSyn rfl h.on
  unfold State.expectedPosition
  dsimp only
  split
  case h_1 => exact htimed.verifyPosition k p
  case h_2 => exact htimed.lockedPosition p
  case h_3 => exact htimed.coastPosition p
  all_goals exact htimed

/-! #### A word and a frame's end (R45, R60 to R63) -/

theorem State.Stretch.idHandling (h : State.Stretch i s u) (p : Profile) : State.Stretch i s (u.idHandling i p) := by
  rcases hout : (u.trk.get i).idWord p (p.idRead (u.trk.get i).word) with ⟨t, outcome⟩
  cases outcome with
  | quiet =>
    rw [State.idHandling_quiet hout]
    exact h.setTrk t
  | gained =>
    rw [State.idHandling_gained hout]
    exact (h.setTrk t).raiseSync _
  | lost =>
    rw [State.idHandling_lost hout]
    exact ((h.setTrk t).raiseSync _).extractionStop _

theorem State.Stretch.wordTaken (h : State.Stretch i s u) (k : Slot) (p : Profile) :
    State.Stretch i s (u.wordTaken i k p) := by
  have hid : State.Stretch i s (u.idTaken i p) := by
    unfold State.idTaken
    split
    · exact h.idHandling p
    · exact h
  unfold State.wordTaken
  split
  · rw [State.mapLookup_eq]
    exact hid.setTrk _
  · exact hid

theorem State.Stretch.ended (h : State.Stretch i s u) (p : Profile) : State.Stretch i s (u.ended i p) :=
  (h.setTrk _).setSyn rfl h.on

theorem State.Stretch.majorBoundary (h : State.Stretch i s u) : State.Stretch i s (u.majorBoundary i) := by
  have hcounted := h.setTrk { u.trk.get i with majorCount := (u.trk.get i).majorCount + 1 }
  have hrosters (n : BitVec 32) {v : State} (hv : State.Stretch i s v) : State.Stretch i s (v.rosterBoundary i n) := by
    have htold : State.Stretch i s { v with rosters := v.rosters.map fun r => r.boundary i } :=
      ⟨hv.kept.trans (.of_records rfl rfl rfl rfl rfl rfl rfl fun _ => rfl), hv.settled.trans (.inl ⟨rfl, rfl⟩), hv.on⟩
    exact htold.raiseAll _
  exact (hrosters _ hcounted).settlePending

end

/-- R53: a word that leaves the frame extracting leaves the map. -/
theorem State.wordTaken_map (u : State) (k : Slot) (p : Profile) :
    u.SameMap (u.wordTaken i k p) ∨ ((u.wordTaken i k p).trk.get i).extracting = false := by
  unfold State.wordTaken
  split
  next hextracting =>
    obtain ⟨hmap, -, hstage, -⟩ := State.idTaken_extracting hextracting
    rw [State.mapLookup_eq]
    exact .inl ⟨hmap, hstage⟩
  next hstopped => exact .inr (Bool.eq_false_of_not_eq_true hstopped)

/-- R63: a boundary leaves the synchronizer and the major state. -/
theorem State.majorBoundary_records (u : State) : (u.majorBoundary i).syn.get i = u.syn.get i
    ∧ ((u.majorBoundary i).trk.get i).major = (u.trk.get i).major := by
  have hsettle (v : State) : (v.settlePending i).syn = v.syn ∧ (v.settlePending i).trk = v.trk := by
    rw [State.settlePending_eq]
    split
    · exact ⟨State.raiseAll_syn _ _, State.raiseAll_trk _ _⟩
    · exact ⟨rfl, rfl⟩
  unfold State.majorBoundary
  rw [(hsettle _).1, (hsettle _).2, State.rosterBoundary, State.raiseAll_syn, State.raiseAll_trk]
  refine ⟨rfl, ?_⟩
  show ((u.trk.set i _).get i).major = _
  rw [PerStream.get_set]

/-! ### The releases as a chain of turns (R147, R189) -/

/-- R147: a stretch between two requests taken inside a bit. -/
structure State.Between (i : StreamId) (u v : State) : Prop where
  kept : State.Kept i u v
  map : u.SameMap v
  syn : v.syn.get i = u.syn.get i
  trk : v.trk.get i = u.trk.get i

theorem State.Between.refl (u : State) : State.Between i u u := ⟨.refl u, .refl u, rfl, rfl⟩

theorem State.Between.trans {u v w : State} (h : State.Between i u v) (h' : State.Between i v w) : State.Between i u w :=
  ⟨h.kept.trans h'.kept, h.map.trans h'.map, h'.syn.trans h.syn, h'.trk.trans h.trk⟩

theorem State.Between.release (u : State) (c : ChannelId) (raw : Sample) : State.Between i u (u.release i c raw) :=
  ⟨.release u c raw, .release u c raw, by rw [State.release_syn], by rw [State.release_trk]⟩

theorem State.Between.sendInside (u : State) : State.Between i u u.sendInside :=
  ⟨.sendInside u, .sendInside u, by rw [State.sendInside_syn], by rw [State.sendInside_trk]⟩

theorem State.Between.draws (u : State) (n : ℕ) : State.Between i u { u with draws := n } :=
  ⟨.of_records rfl rfl rfl rfl rfl rfl rfl fun _ => rfl, ⟨rfl, rfl⟩, rfl, rfl⟩

theorem State.TurnChain.releaseAll (e : State) (t : Tracker) (g : List Staged) : ∀ u : State,
    (∃ n, State.TurnChain i (State.Between i) e n u)
      → ∃ n, State.TurnChain i (State.Between i) e n (State.releaseAll i t u g) := by
  have extend {u v : State} (h : ∃ n, State.TurnChain i (State.Between i) e n u) (hv : State.Between i u v) :
      ∃ n, State.TurnChain i (State.Between i) e n v :=
    h.imp fun n hn => State.TurnChain.extend (R := State.Between i) .trans hn hv
  induction g with
  | nil => exact fun u h => h
  | cons g rest ih =>
    intro u h
    refine ih _ (State.requestsBetween_keeps (P := fun u => ∃ n, State.TurnChain i (State.Between i) e n u)
      (fun _ hu => State.TurnChain.takeTurn .refl hu) (fun u hu => extend hu (.sendInside u))
      (fun u n hu => extend hu (.draws u n)) (extend h (.release u g.channel _)))

/-- R15: the turns inside a bit leave the stream's own records. -/
theorem State.TurnTo.records {u v : State} (h : u.TurnTo i v) : v.syn.get i = u.syn.get i ∧ v.trk.get i = u.trk.get i := by
  obtain ⟨hwaits, rfl⟩ := State.turnTo_iff.1 h
  have hrecords := u.takeTurn_records i
  rwa [State.takeTurn, if_pos hwaits] at hrecords

theorem State.TurnChain.records {e r : State} {n : ℕ} (h : State.TurnChain i (State.Between i) e n r) :
    r.syn.get i = e.syn.get i ∧ r.trk.get i = e.trk.get i := by
  induction h with
  | stretch hs => exact ⟨hs.syn, hs.trk⟩
  | turn _ ht hv ih => exact ⟨hv.syn.trans (ht.records.1.trans ih.1), hv.trk.trans (ht.records.2.trans ih.2)⟩

/-- R15: the records with which the turns of a chain begin. -/
theorem State.TurnChain.records_before {e : State} {n : ℕ} {before after : ℕ → State}
    (hfirst : State.Between i e (before 0))
    (hturns : ∀ m < n, (before m).TurnTo i (after m) ∧ State.Between i (after m) (before (m + 1))) : ∀ m ≤ n,
    (before m).syn.get i = e.syn.get i ∧ (before m).trk.get i = e.trk.get i := by
  intro m
  induction m with
  | zero => exact fun _ => ⟨hfirst.syn, hfirst.trk⟩
  | succ m ih =>
    intro hm
    obtain ⟨hsyn, htrk⟩ := ih (by omega)
    obtain ⟨hturn, hstretch⟩ := hturns m hm
    exact ⟨hstretch.syn.trans (hturn.records.1.trans hsyn), hstretch.trk.trans (hturn.records.2.trans htrk)⟩

/-! ### A bit (R15, R147) -/

/-- R147: a bit takes no request, or it takes a chain of them at a frame's end, with the records that the bit leaves. -/
def State.BitChain (i : StreamId) (s t : State) : Prop :=
  (State.Kept i s t ∧ State.Settled i s t) ∨ ∃ e n r, State.Kept i s e ∧ s.SameMap e
    ∧ State.TurnChain i (State.Between i) e n r ∧ State.Kept i r t ∧ State.Settled i r t
    ∧ t.syn.get i = r.syn.get i ∧ (t.trk.get i).major = (r.trk.get i).major

theorem State.Stretch.bitChain {s u : State} (h : State.Stretch i s u) : State.BitChain i s u := .inl ⟨h.kept, h.settled⟩

/-- R60: a frame's end. -/
theorem State.Stretch.minorFrameEnd {s u : State} (h : State.Stretch i s u) {p : Profile}
    (hmap : s.SameMap u ∨ (u.trk.get i).extracting = false) : State.BitChain i s (u.minorFrameEnd i p) := by
  have hended := h.ended p
  cases hextracting : (u.trk.get i).extracting with
  | false =>
    have hreleased : u.releasedEnd i p = u.ended i p := by
      rw [State.releasedEnd, hextracting]
      rfl
    rw [State.minorFrameEnd_eq, hreleased]
    split
    · exact hended.majorBoundary.bitChain
    · exact hended.bitChain
  | true =>
    have hsame : s.SameMap (u.ended i p) := (hmap.resolve_right (by rw [hextracting]; decide)).trans ⟨rfl, rfl⟩
    obtain ⟨n, hchain⟩ : ∃ n, State.TurnChain i (State.Between i) (u.ended i p) n (u.releasedEnd i p) := by
      rw [State.releasedEnd, if_pos hextracting]
      exact State.TurnChain.releaseAll _ _ _ _ ⟨0, .stretch (.refl _)⟩
    have hon : ((u.releasedEnd i p).syn.get i).mode ≠ .off := by
      rw [hchain.records.1]
      exact hended.on
    rw [State.minorFrameEnd_eq]
    refine .inr ⟨u.ended i p, n, u.releasedEnd i p, hended.kept, hsame, hchain, ?_⟩
    split
    · have hboundary := (State.Stretch.refl hon).majorBoundary
      exact ⟨hboundary.kept, hboundary.settled, (u.releasedEnd i p).majorBoundary_records⟩
    · exact ⟨.refl _, .inl (.refl _), rfl, rfl⟩

theorem State.Stretch.wordComplete {s u : State} (h : State.Stretch i s u) (hmap : s.SameMap u) (k : Slot) (p : Profile) :
    State.BitChain i s (u.wordComplete i k p) := by
  have htaken := h.wordTaken k p
  rw [State.wordComplete_eq]
  split
  · exact htaken.minorFrameEnd ((u.wordTaken_map k p).imp_left hmap.trans)
  · exact (htaken.setTrk _).bitChain

theorem State.Stretch.trackerBit {s u : State} (h : State.Stretch i s u) (hmap : s.SameMap u) (bit : Bool) :
    State.BitChain i s (u.trackerBit i bit) := by
  unfold State.trackerBit
  split
  · exact h.bitChain
  · split
    · exact h.bitChain
    · split
      · exact (h.setTrk _).bitChain
      · exact (h.setTrk _).wordComplete (hmap.trans ⟨rfl, rfl⟩) _ _

theorem State.Stretch.followBit {s u : State} (h : State.Stretch i s u) (hmap : s.SameMap u) (k : Slot) (p : Profile)
    (bit : Bool) : State.BitChain i s (u.followBit i k p bit) := by
  unfold State.followBit
  split
  · exact (h.expectedPosition k p).bitChain
  · have hcounted : State.Stretch i s (u.setSyn i { u.syn.get i with bitsToSync := (u.syn.get i).bitsToSync - 1 }) :=
      h.setSyn rfl h.on
    dsimp only
    split
    · exact hcounted.trackerBit (hmap.trans ⟨rfl, rfl⟩) _
    · exact hcounted.bitChain

theorem State.Stretch.search {s u : State} (h : State.Stretch i s u) : State.Stretch i s (u.search i) := by
  unfold State.search
  split
  · exact h
  · exact h.setSyn rfl nofun

theorem State.Stretch.follow {s u : State} (h : State.Stretch i s u) (hmap : s.SameMap u) (bit : Bool) :
    State.BitChain i s (u.follow i bit) := by
  unfold State.follow
  split
  · exact h.bitChain
  · split
    · exact h.bitChain
    · exact h.followBit hmap _ _ bit

theorem State.bitArrival_chain (s : State) (bit : Bool) : State.BitChain i s (s.bitArrival i bit) := by
  by_cases hoff : (s.syn.get i).mode = .off
  · rw [State.bitArrival_off hoff]
    exact .inl ⟨.refl s, .inl (.refl s)⟩
  · have hrecorded : State.Stretch i s (s.setSyn i ((s.syn.get i).record bit s.timebase)) :=
      (State.Stretch.refl hoff).setSyn rfl hoff
    rw [State.bitArrival_on hoff]
    unfold State.bitWork
    split
    case h_1 => exact hrecorded.bitChain
    case h_2 => exact hrecorded.search.bitChain
    case h_6 => exact hrecorded.bitChain
    all_goals exact hrecorded.follow ⟨rfl, rfl⟩ bit

/-- R11, R189: a turn inside a bit changes a slot only as a load or a drop of that slot, which is not in use. -/
theorem State.TurnTo.profile {u v : State} (h : u.TurnTo i v) {k : Slot} (hk : v.profile k ≠ u.profile k) :
    u.slotInUse k = false ∧ ∃ q rest, u.inbound = q :: rest ∧ (q.kind = 0x08 ∨ q.kind = 0x09)
      ∧ q.payload.head? = some (BitVec.ofNat 8 k.val) := by
  obtain ⟨hwaits, rfl⟩ := State.turnTo_iff.1 h
  obtain ⟨q, rest, hhead, -⟩ := (u.requestWaits_iff i).1 hwaits
  obtain ⟨hfree, hkind, hslot⟩ := State.takeAny_profile hhead hk
  exact ⟨hfree, q, rest, hhead.1, hkind, hslot⟩

end

/-- R11: a slot is armed by a stream that has it in its armed set and is not OFF. -/
theorem State.armedBy_iff (s : State) (k : Slot) (i : StreamId) :
    s.armedBy k i = true ↔ (s.syn.get i).armed.getLsbD k.val = true ∧ (s.syn.get i).mode ≠ .off := by
  rw [State.armedBy, Bool.and_eq_true, decide_eq_true_iff]

theorem State.mappedSlot_iff_named (s : State) (k : Slot) : s.mappedSlot k = true ↔ (∃ e ∈ s.map, e.profile = k)
    ∨ ∃ i e, (s.stage.get i).pending = true ∧ Edit.add e ∈ (s.stage.get i).edits ∧ e.profile = k := by
  rw [State.mappedSlot_iff]
  constructor
  · rintro ⟨e, hmap | ⟨i, hpending, hedit⟩, hk⟩
    · exact .inl ⟨e, hmap, hk⟩
    · exact .inr ⟨i, e, hpending, hedit, hk⟩
  · rintro (⟨e, hmap, hk⟩ | ⟨i, e, hpending, hedit, hk⟩)
    · exact ⟨e, .inl hmap, hk⟩
    · exact ⟨e, .inr ⟨i, hpending, hedit⟩, hk⟩

/-- Settles O19: a bit that takes requests is the chain of its releases, whose turns change only slots that are free. -/
theorem usedSlotsKept : Obligations.UsedSlotsKept := by
  refine ⟨fun s k => rfl, State.armedBy_iff, State.mappedSlot_iff_named,
    fun c s t k hexec hfull hpower hbit => exec_profile hexec hfull hpower hbit, fun i bit s t hexec => ?_⟩
  intro kept sameMap applied
  have hkept {u v : State} (h : State.Kept i u v) : kept u v :=
    ⟨h.profiles, h.inbound, h.replies, h.cache, h.timebase, h.configs, h.streams⟩
  cases hexec
  rcases s.bitArrival_chain (i := i) bit with ⟨hwhole, hsettled⟩ |
    ⟨e, n, r, hbegin, hmap, hchain, hend, hsettled, hsyn, hmajor⟩
  · exact ⟨0, Nat.zero_le _, fun _ => s, fun _ => s, hkept (.refl s), State.SameMap.refl s, nofun, hkept hwhole, hsettled,
      nofun⟩
  · have hlength := hchain.length_le fun h => h.kept.inbound
    rw [hbegin.inbound] at hlength
    obtain ⟨before, after, hfirst, hturns, rfl⟩ := hchain.states
    have hrecords := State.TurnChain.records_before hfirst hturns
    obtain ⟨hsynLast, htrkLast⟩ := hrecords n (Nat.le_refl n)
    refine ⟨n, by omega, before, after, hkept (hbegin.trans hfirst.kept), hmap.trans hfirst.map, fun m hm => ?_,
      hkept hend, hsettled, fun m hm k hk => (hturns m hm).1.profile hk⟩
    obtain ⟨hturn, hbetween⟩ := hturns m hm
    obtain ⟨hsynBefore, htrkBefore⟩ := hrecords m (Nat.le_of_lt hm)
    refine ⟨hturn, hkept hbetween.kept, hbetween.map, ?_, ?_⟩
    · exact hsynBefore.trans (hsynLast.symm.trans hsyn.symm)
    · rw [htrkBefore, ← htrkLast]
      exact hmajor.symm

end Sys2Proof.Machine
end
